-- ==== Sys2Proof/Word.lean ====
section
/-!
DEFINITION. The plain value types of the PIN-block codec core (spec/00_scope.md R10, R14, R15): nibbles,
characters, 16-nibble fields and character strings.
-/
namespace Sys2Proof

/-- A nibble: an unsigned 4-bit value, 0 to 15 (R14). -/
abbrev Nibble := BitVec 4

/-- A character on any port: an 8-bit code (R10). -/
abbrev Byte := BitVec 8

/-- A field: exactly 16 nibbles, index 0 first and most significant (R15). -/
abbrev Field := Vector Nibble 16

/-- A string on a port: its characters, leftmost first; `len` is the length of the list (R15). -/
abbrev Chars := List Byte

end Sys2Proof
end

