-- ==== Sys2Proof/Config.lean ====
section
/-!
DEFINITION. The parameters of an instance, fixed before any command (spec/00_scope.md R11 to R13, spec/10_state.md
R28): configuration, not state. Every shared operation takes the parameters it depends on as an argument, so its laws
hold for each of their values; `Config.params` is the instance that `step` runs.
-/
namespace Sys2Proof

/-- The parameters of R11 to R13. A capacity of `none` is an unbounded port, which R11 allows a model to take. -/
structure Params where
  /-- `HEX_LOWER_OK` (R13): DECODE accepts `a` to `f`. -/
  hexLowerOk : Bool
  /-- `FILL_EXCLUDES_MAX` (R12): a draw may not take the value maxFill. -/
  fillExcludesMax : Bool
  /-- `PIN_CAP` (R11). -/
  pinCap : Option Nat
  /-- `PAN_CAP` (R11). -/
  panCap : Option Nat
  /-- `PB_CAP` (R11). -/
  pbCap : Option Nat
deriving DecidableEq, Repr

/-- The lower bounds R11 puts on the capacities. -/
def Params.Legal (p : Params) : Prop :=
  (∀ c, p.pinCap = some c → 13 ≤ c) ∧ (∀ c, p.panCap = some c → 19 ≤ c) ∧ (∀ c, p.pbCap = some c → 17 ≤ c)

/-- `HEX_LOWER_OK` is OPEN and R13 gives it no default, so it is a constant nothing can evaluate: every claim about
`step` holds for both of its values (notes/assumptions/3.md). -/
opaque Config.hexLowerOk : Bool

/-- The instance that `step` runs: `HEX_LOWER_OK` open, `FILL_EXCLUDES_MAX` at the default of R12
(notes/assumptions/4.md), the three ports unbounded as R11 allows (notes/assumptions/5.md). -/
def Config.params : Params where
  hexLowerOk := Config.hexLowerOk
  fillExcludesMax := false
  pinCap := none
  panCap := none
  pbCap := none

end Sys2Proof
end

