-- ==== Sys2Proof/Syntax.lean ====
section
/-!
DEFINITION. The commands of the core, one constructor per row of spec/opcode_table.json (spec/30_encoding.md R71),
and the four format numbers they select (spec/10_state.md R27).
-/
namespace Sys2Proof

/-- The four formats, in the order of their ordinals (R4, R27). -/
inductive Format where
  | iso0
  | iso1
  | iso2
  | iso3
deriving DecidableEq, Repr

/-- A command. The operand strings are no fields of the command word: they stand on the input ports when the
command is presented (R29 to R33), so no constructor carries one. -/
inductive Instr where
  /-- `ENCODE.ISO0 pin, pan` (R106). -/
  | encodeIso0
  /-- `ENCODE.ISO1 pin, pan` (R107). -/
  | encodeIso1
  /-- `ENCODE.ISO2 pin, pan` (R108). -/
  | encodeIso2
  /-- `ENCODE.ISO3 pin, pan, rnd` (R109). -/
  | encodeIso3
  /-- `DECODE pb, pan` (R203); the four words `1xx` are this one command (R72). -/
  | decode
deriving DecidableEq, Repr

/-- The mnemonic of the textual syntax (R86). -/
def Instr.mnemonic : Instr → String
  | .encodeIso0 => "ENCODE.ISO0"
  | .encodeIso1 => "ENCODE.ISO1"
  | .encodeIso2 => "ENCODE.ISO2"
  | .encodeIso3 => "ENCODE.ISO3"
  | .decode => "DECODE"

end Sys2Proof
end

