-- ==== Sys2Proof/Machine/Operands.lean ====
section
/-!
DEFINITION. The operand forms: the character primitives of spec/00_scope.md R16, the format, digit, length, window,
hexadecimal and draw operands of spec/30_encoding.md R78 to R83, and the format descriptor table of
spec/10_state.md R27.
-/
namespace Sys2Proof.Machine

/-! ### Character primitives (R16) -/

/-- `isdigit(c)`. -/
def isDigit (c : Byte) : Bool := decide (0x30#8 ≤ c) && decide (c ≤ 0x39#8)

/-- `isupperhex(c)`. -/
def isUpperHex (c : Byte) : Bool := isDigit c || (decide (0x41#8 ≤ c) && decide (c ≤ 0x46#8))

/-- `islowerhex(c)`. -/
def isLowerHex (c : Byte) : Bool := decide (0x61#8 ≤ c) && decide (c ≤ 0x66#8)

/-- `ishex(c)`, `lowerOk` being `HEX_LOWER_OK`. -/
def isHex (lowerOk : Bool) (c : Byte) : Bool := isUpperHex c || (isLowerHex c && lowerOk)

/-- `digval(c)`, read only where `isdigit(c)` (R16, R79). -/
def digVal (c : Byte) : Nibble := (c - 0x30#8).setWidth 4

/-- `hexval(c)`, read only where `ishex(c)` (R16, R82). -/
def hexVal (c : Byte) : Nibble :=
  if isDigit c then (c - 0x30#8).setWidth 4
  else if 0x41#8 ≤ c ∧ c ≤ 0x46#8 then (c - 0x41#8 + 10#8).setWidth 4
  else (c - 0x61#8 + 10#8).setWidth 4

/-- `digchar(v)`, used only where `v` is 0 to 9. -/
def digChar (v : Nibble) : Byte := 0x30#8 + v.setWidth 8

/-- `hexchar(v)`, always uppercase. -/
def hexChar (v : Nibble) : Byte :=
  if v ≤ 9#4 then 0x30#8 + v.setWidth 8 else 0x41#8 + v.setWidth 8 - 10#8

/-! ### Indexed reads (R15, R50, R54) -/

/-- `s.ch[k]`. Every command reads it only where a check has established `k < s.len` (R54); the value beyond the
end is never observed (notes/assumptions/11.md). -/
def charAt (s : Chars) (k : Nat) : Byte := s.getD k 0#8

/-- `F[i]` at a computed index, read only for `i` below 16 (R50). -/
def nibbleAt (F : Field) (i : Nat) : Nibble := F[i]?.getD 0#4

/-- `rnd[j]` at a computed index, read only for `j` below 10 (R32). -/
def drawAt (rnd : Vector Nibble 10) (j : Nat) : Nibble := rnd[j]?.getD 0#4

/-! ### The format operand (R27, R78) -/

/-- One entry of `FMT` (R27). -/
structure FormatDescriptor where
  marker : Nibble
  minFill : Nibble
  maxFill : Nibble
  /-- R27's own column: whether ENCODE implements the format. -/
  implemented : Bool
deriving DecidableEq, Repr

/-- The 2-bit format number, equal to the marker (R70, R78). -/
def formatNumber : Format → BitVec 2
  | .iso0 => 0#2
  | .iso1 => 1#2
  | .iso2 => 2#2
  | .iso3 => 3#2

/-- `FMT`, hardwired, the same before and after reset, written by nothing (R27). -/
def fmtTable (f : Format) : FormatDescriptor :=
  match f with
  | .iso0 => { marker := 0#4, minFill := 15#4, maxFill := 15#4, implemented := true }
  | .iso1 => { marker := 1#4, minFill := 15#4, maxFill := 15#4, implemented := false }
  | .iso2 => { marker := 2#4, minFill := 15#4, maxFill := 15#4, implemented := false }
  | .iso3 => { marker := 3#4, minFill := 0#4, maxFill := 15#4, implemented := true }

/-- The fill policy is "constant" when minFill = maxFill and "drawn" otherwise (R78). -/
def fillIsConstant (f : Format) : Bool := (fmtTable f).minFill == (fmtTable f).maxFill

/-! ### The draw operand (R83, R127) -/

/-- The admitted values of a draw for format `f`: minFill to maxFill, without maxFill when `FILL_EXCLUDES_MAX` is
true (R127). -/
def admittedDraw (excludesMax : Bool) (f : Format) (v : Nibble) : Bool :=
  decide ((fmtTable f).minFill ≤ v) &&
    (if excludesMax then decide (v < (fmtTable f).maxFill) else decide (v ≤ (fmtTable f).maxFill))

/-- The draws the command reads, `rnd[0]` to `rnd[13 - len]` under a drawn fill and none under a constant one
(R32, R125, R126), are all in the admitted set (R127). -/
def drawsAdmitted (excludesMax : Bool) (f : Format) (len : Nat) (rnd : Vector Nibble 10) : Bool :=
  fillIsConstant f || (List.range (14 - len)).all fun j => admittedDraw excludesMax f (drawAt rnd j)

end Sys2Proof.Machine
end

