-- ==== Sys2Proof/WellFormed.lean ====
section
/-!
DEFINITION. Well-formedness. A command is its 3-bit word and nothing else, and every word has a meaning, so every
`Instr` is well-formed (spec/30_encoding.md R71, R73); what can be ill-formed is an operand, and R77 says when.
-/
namespace Sys2Proof

open Sys2Proof.Machine

/-- Every command is well-formed: "No command word is illegal" (R73). -/
def Instr.wf : Instr → Bool
  | .encodeIso0 => true
  | .encodeIso1 => true
  | .encodeIso2 => true
  | .encodeIso3 => true
  | .decode => true

/-- A well-formed PIN: 4 to 12 characters, all decimal digits (R77). -/
def pinWf (pin : Chars) : Bool := decide (4 ≤ pin.length) && decide (pin.length ≤ 12) && pin.all isDigit

/-- A well-formed PAN: present, at least 13 characters, the last 13 all decimal digits (R77). -/
def panWf : Option Chars → Bool
  | none => false
  | some pan => decide (13 ≤ pan.length) && (pan.drop (pan.length - 13)).all isDigit

/-- A well-formed block: exactly 16 hexadecimal digits, the first `0` or `3` (R77). -/
def blockWf (lowerOk : Bool) (pb : Chars) : Bool :=
  decide (pb.length = 16) && pb.all (isHex lowerOk) && (charAt pb 0 == 0x30#8 || charAt pb 0 == 0x33#8)

end Sys2Proof
end

