-- ==== Sys2Proof/Decode.lean ====
section
/-!
DEFINITION. The command word (spec/30_encoding.md R70 to R72): its decoder, total on 3-bit words, and its encoder.
-/
namespace Sys2Proof

/-- `cmd[2]`, the `op` field: true for DECODE (R70). -/
def opField (w : BitVec 3) : Bool := w.getLsbD 2

/-- `cmd[1:0]`, the `fmt` field (R70). -/
def fmtField (w : BitVec 3) : BitVec 2 := w.extractLsb' 0 2

/-- The command a 3-bit word names. All eight words are defined (R71); a word with `op` = 1 is DECODE whatever its
`fmt` field holds (R72). -/
def decodeCmd (w : BitVec 3) : Instr :=
  if opField w then .decode
  else if fmtField w = 0#2 then .encodeIso0
  else if fmtField w = 1#2 then .encodeIso1
  else if fmtField w = 2#2 then .encodeIso2
  else .encodeIso3

/-- Why bits are no command word. -/
inductive DecodeReject where
  /-- The value does not fit the 3 bits of `CMD3`, the one format there is (R70, R73(e)). -/
  | notThreeBits
deriving DecidableEq, Repr

/-- The command a number names: a command word is 3 bits wide, and anything wider is rejected by name (R70;
notes/assumptions/12.md). -/
def decodeNumber (w : Nat) : Except DecodeReject Instr :=
  if w < 8 then .ok (decodeCmd (BitVec.ofNat 3 w)) else .error .notThreeBits

/-- The word of a command (R71); DECODE is written with its ignored `fmt` field at 0, as in the opcode table. -/
def encodeCmd : Instr → BitVec 3
  | .encodeIso0 => 0b000#3
  | .encodeIso1 => 0b001#3
  | .encodeIso2 => 0b010#3
  | .encodeIso3 => 0b011#3
  | .decode => 0b100#3

/-- The decoder on a word numbered as spec/opcode_table.json numbers it. A command word is 3 bits; `nbits` counts
whole bytes, and the bits above the word are zero. -/
def decodeTableWord (nbits w : Nat) : Option Instr :=
  match decodeNumber (w % 2 ^ nbits) with
  | .ok i => some i
  | .error _ => none

end Sys2Proof
end

