-- ==== Sys2Proof/Machine/State.lean ====
section
/-!
DEFINITION. The state: the input record the host drives and the output ports the last command left
(spec/10_state.md R20, R29 to R35, R38). Nothing else survives a command (R20): the fields PINF, PANF and BLK are
values inside a command's meaning and exist nowhere between commands (R21 to R24, R38; notes/assumptions/1.md).
-/
namespace Sys2Proof.Machine

/-! ### What a command reports (R34, R84, R85, R221) -/

/-- The reasons of `InvalidPin` (R85). -/
inductive PinReason where
  | length
  | nonNumeric
deriving DecidableEq, Repr

/-- The reasons of `InvalidPan` (R85). -/
inductive PanReason where
  | absent
  | short
  | nonNumeric
deriving DecidableEq, Repr

/-- The reasons of `UnsupportedFormat` (R85). -/
inductive FormatReason where
  | encFormat
  | decMarker
deriving DecidableEq, Repr

/-- The reasons of `InvalidPinblock` (R85). -/
inductive BlockReason where
  | length
  | badChar
  | pinlenRange
  | digitRange
deriving DecidableEq, Repr

/-- A fault the core takes: one of the eleven rows of R221, a kind with a reason of that kind and nothing else.
Taking one is an ordinary step of the machine (R230), not a `Fault` below. -/
inductive CodecFault where
  | invalidPin (r : PinReason)
  | invalidPan (r : PanReason)
  | unsupportedFormat (r : FormatReason)
  | invalidPinblock (r : BlockReason)
deriving DecidableEq, Repr

/-- The outcome of a command (R34). -/
inductive Reply where
  /-- `Ok(hex)`, from ENCODE. -/
  | block (hex : Vector Byte 16)
  /-- `Ok(pin)`, from DECODE. -/
  | pin (digits : Chars)
  /-- `Fault(kind, reason)`. -/
  | fault (f : CodecFault)
deriving DecidableEq, Repr

/-! ### The ports -/

/-- The input record (R29 to R33), driven by the host. -/
structure Inputs where
  /-- `cmd`, 3 bits (R29). -/
  cmd : BitVec 3
  /-- `pin` (R30). -/
  pin : Chars
  /-- `pan`; `none` is `pan.present` = 0 (R31). -/
  pan : Option Chars
  /-- `rnd[0..9]` (R32). -/
  rnd : Vector Nibble 10
  /-- `pb` (R33). -/
  pb : Chars
deriving DecidableEq, Repr

/-- The output ports (R35). -/
structure Outputs where
  /-- `status`, 3 bits. -/
  status : BitVec 3
  /-- `reason`, 3 bits. -/
  reason : BitVec 3
  /-- `out_valid`, 1 bit. -/
  outValid : Bool
  /-- `out_hex[0..15]`. -/
  outHex : Vector Byte 16
  /-- `out_pin.len`, 4 bits. -/
  outPinLen : BitVec 4
  /-- `out_pin.ch[0..11]`. -/
  outPinCh : Vector Byte 12
deriving DecidableEq, Repr

/-- The state between two commands. -/
structure State where
  /-- The input ports, as the host drives them for the next command. -/
  inp : Inputs
  /-- The output ports, as the last command or a reset left them. -/
  out : Outputs
deriving DecidableEq, Repr

/-- Why a step does not happen. Both are input records outside the port contract, for which the model has no step
(R240): the host is assumed not to present them (notes/assumptions/6.md). No fault of the codec is one of these (see
`CodecFault`). -/
inductive Fault where
  /-- Raised by every command when a port carries a string longer than its capacity (R11, R240). Safe: the machine
  stops where R240 gives no step. -/
  | inputBeyondCapacity
  /-- Raised by ENCODE.ISO3, its checks passed, when a draw it reads is outside the admitted set (R127, R240). Safe:
  the machine stops where R127 gives no step. -/
  | drawNotAdmitted
deriving DecidableEq, Repr

/-- Why a command has no meaning in the model. -/
inductive Refusal where
  /-- Raised by no arm of `exec`: every command of the table has its meaning. Safe. -/
  | notModelled (mnemonic : String)
deriving DecidableEq, Repr

/-! ### Reset (R38, R39, R260) -/

/-- The output ports after reset: status 0, reason 0, out_valid 0, all data 0x00 (R39). -/
def Outputs.reset : Outputs where
  status := 0#3
  reason := 0#3
  outValid := false
  outHex := Vector.replicate 16 0#8
  outPinLen := 0#4
  outPinCh := Vector.replicate 12 0#8

/-- The input ports at reset. DESIGN CHOICE: the host drives them and the spec gives no value (R38); here every bit
is 0, every string empty and the PAN absent (notes/assumptions/2.md). -/
def Inputs.reset : Inputs where
  cmd := 0#3
  pin := []
  pan := none
  rnd := Vector.replicate 10 0#4
  pb := []

/-- The machine right after reset. -/
def State.reset : State where
  inp := Inputs.reset
  out := Outputs.reset

end Sys2Proof.Machine
end

