-- ==== Sys2Proof/Machine/Flags.lean ====
section
/-!
DEFINITION. The outcome codes of spec/30_encoding.md R84 and R85. The core has no flag that one command sets and
another reads (spec/10_state.md R26): these codes on the `status` and `reason` ports are its only result indicators.
-/
namespace Sys2Proof.Machine

/-- The kind code of a fault (R84). -/
def kindCode : CodecFault → BitVec 3
  | .invalidPin _ => 1#3
  | .invalidPan _ => 2#3
  | .unsupportedFormat _ => 3#3
  | .invalidPinblock _ => 4#3

/-- The reason code of a fault (R85). -/
def reasonCode : CodecFault → BitVec 3
  | .invalidPin .length => 1#3
  | .invalidPin .nonNumeric => 2#3
  | .invalidPan .absent => 1#3
  | .invalidPan .short => 2#3
  | .invalidPan .nonNumeric => 3#3
  | .unsupportedFormat .encFormat => 1#3
  | .unsupportedFormat .decMarker => 2#3
  | .invalidPinblock .length => 1#3
  | .invalidPinblock .badChar => 2#3
  | .invalidPinblock .pinlenRange => 3#3
  | .invalidPinblock .digitRange => 4#3

end Sys2Proof.Machine
end

