-- ==== Sys2Proof/Machine/Ops.lean ====
section
/-!
DEFINITION. The named operations over the core's storage: the XOR combiner (spec/43_xor_combiner.md R160), the packed
view of a field (spec/20_memory.md R52), the output ports (spec/10_state.md R35), answering a command and taking a
fault (spec/60_exceptions.md R230), and the port contract (spec/00_scope.md R11).
-/
namespace Sys2Proof.Machine

/-! ### Fields -/

/-- `Xor16(A, B)`: lane `i` of the result is `A[i] xor B[i]`, the lanes independent (R160, R161). -/
def xor16 (A B : Field) : Field := Vector.ofFn fun i => A[i] ^^^ B[i]

/-- Byte `k` of the packed view: `F[2k] ‖ F[2k+1]`, the even-indexed nibble in bits 7:4 (R52). -/
def packedByte (F : Field) (k : Fin 8) : Byte := nibbleAt F (2 * k) ++ nibbleAt F (2 * k + 1)

/-- The 64-bit packed view: `F[0]` in bits 63:60 down to `F[15]` in bits 3:0 (R52). -/
def packField (F : Field) : BitVec 64 :=
  F[0] ++ F[1] ++ F[2] ++ F[3] ++ F[4] ++ F[5] ++ F[6] ++ F[7] ++
    F[8] ++ F[9] ++ F[10] ++ F[11] ++ F[12] ++ F[13] ++ F[14] ++ F[15]

/-! ### The output ports -/

/-- The output ports that carry an outcome: the three columns of R35. -/
def Outputs.ofReply : Reply → Outputs
  | .block hex =>
    { status := 0#3, reason := 0#3, outValid := true, outHex := hex,
      outPinLen := 0#4, outPinCh := Vector.replicate 12 0#8 }
  | .pin digits =>
    { status := 0#3, reason := 0#3, outValid := true, outHex := Vector.replicate 16 0#8,
      outPinLen := BitVec.ofNat 4 digits.length, outPinCh := Vector.ofFn fun k => digits.getD k 0#8 }
  | .fault f =>
    { status := kindCode f, reason := reasonCode f, outValid := false, outHex := Vector.replicate 16 0#8,
      outPinLen := 0#4, outPinCh := Vector.replicate 12 0#8 }

/-- The command ends with outcome `r`: the output ports show it, the input ports stay as the host drives them. -/
def State.answer (s : State) (r : Reply) : State := { s with out := Outputs.ofReply r }

/-- TAKING A FAULT (R230): the ports show the kind and the reason, no data; nothing is saved, because there is
nothing to save; the core is ready for the next command (notes/assumptions/8.md). There is no handler and no return (R232). -/
def State.takeFault (s : State) (f : CodecFault) : State := s.answer (.fault f)

/-! ### The port contract -/

/-- A string of `len` characters fits a port of capacity `cap` (R11). -/
def fitsCap (cap : Option Nat) (len : Nat) : Bool :=
  match cap with
  | none => true
  | some c => decide (len ≤ c)

/-- Every string of the record fits its port; an absent PAN has no length (R11, R31). -/
def Inputs.withinCaps (p : Params) (r : Inputs) : Bool :=
  fitsCap p.pinCap r.pin.length && fitsCap p.pbCap r.pb.length &&
    (match r.pan with
     | none => true
     | some pan => fitsCap p.panCap pan.length)

end Sys2Proof.Machine
end

