-- ==== Sys2Proof/Machine/Hex.lean ====
section
/-!
DEFINITION. The hexadecimal renderer, the hexadecimal parser and the decimal renderer (spec/44_hex_renderer.md R170,
R175, R180).
-/
namespace Sys2Proof.Machine

/-- `HexRender(B)` (R170): character `i` renders nibble `i`, uppercase, and nothing is added (R172). -/
def hexRender (B : Field) : Vector Byte 16 := Vector.ofFn fun i => hexChar B[i]

/-- `HexParse(pb)` (R175), run only on a block of 16 characters: `BAD_CHAR` if any is no hexadecimal digit. -/
def hexParse (lowerOk : Bool) (pb : Chars) : Except BlockReason Field :=
  if pb.all (isHex lowerOk) then .ok (Vector.ofFn fun (i : Fin 16) => hexVal (charAt pb i.val))
  else .error .badChar

/-- `DecRender(n, F[2 .. 2 + n))` (R180): the `n` digit nibbles from index 2 on as decimal characters. -/
def decRender (n : Nat) (F : Field) : Chars := (List.range n).map fun k => digChar (nibbleAt F (2 + k))

end Sys2Proof.Machine
end

