-- ==== Sys2Proof/Machine/PanField.lean ====
section
/-!
DEFINITION. The PAN-field extractor and its guard (spec/42_pan_field.md R140 to R148), shared by ENCODE and DECODE.
-/
namespace Sys2Proof.Machine

/-- The tail: the last 13 characters, the window and the check digit (R19, R144). -/
def panTail (pan : Chars) : Chars := pan.drop (pan.length - 13)

/-- `PanCheck(pan)` (R141): absent, short, non-digit in the tail, in this order. A PAN that passes is returned. -/
def panCheck : Option Chars → Except PanReason Chars
  | none => .error .absent
  | some pan =>
    if pan.length < 13 then .error .short
    else if ¬ (panTail pan).all isDigit then .error .nonNumeric
    else .ok pan

/-- `PanField(pan)` (R140): four zero nibbles, then the window `pan.ch[L - 13 + k]`, k = 0 to 11. Run only on a PAN
that `panCheck` passed, so `L - 13` does not go below zero (R54). -/
def panField (pan : Chars) : Field :=
  Vector.ofFn fun (i : Fin 16) =>
    if i.val < 4 then 0#4 else digVal (charAt pan (pan.length - 13 + (i.val - 4)))

end Sys2Proof.Machine
end

