-- ==== Sys2Proof/Machine/DecodeBlock.lean ====
section
/-!
DEFINITION. The DECODE command, the inverse decoder (spec/45_decode_command.md): the procedure R190 and the command
R203.
-/
namespace Sys2Proof.Machine

/-- Steps 7 to 10 of `Decode` on the recovered PIN field: the length, the digits, the PIN (R199 to R201). -/
def readPin (F : Field) : Except BlockReason Chars :=
  let n := (nibbleAt F 1).toNat
  if n < 4 ∨ 12 < n then .error .pinlenRange
  else if (List.range n).any fun k => decide (9#4 < nibbleAt F (2 + k)) then .error .digitRange
  else .ok (decRender n F)

/-- `Decode(pb, pan)` (R190): length, raw marker, parse, PAN checks, XOR reversal, PIN, in the priority of R227
(notes/assumptions/9.md). -/
def decodeBlock (lowerOk : Bool) (pb : Chars) (pan : Option Chars) : Except CodecFault Chars :=
  if pb.length ≠ 16 then .error (.invalidPinblock .length)
  else if charAt pb 0 ≠ 0x30#8 ∧ charAt pb 0 ≠ 0x33#8 then .error (.unsupportedFormat .decMarker)
  else
    match hexParse lowerOk pb with
    | .error r => .error (.invalidPinblock r)
    | .ok blk =>
      match panCheck pan with
      | .error r => .error (.invalidPan r)
      | .ok pan =>
        match readPin (xor16 blk (panField pan)) with
        | .error r => .error (.invalidPinblock r)
        | .ok pin => .ok pin

/-- One DECODE command on an instance with parameters `p`; outside the port contract there is no step (R240). -/
def runDecode (p : Params) (s : State) : Host.Outcome State Fault Refusal :=
  if ¬ s.inp.withinCaps p then .fault .inputBeyondCapacity
  else
    match decodeBlock p.hexLowerOk s.inp.pb s.inp.pan with
    | .error e => .next (s.takeFault e)
    | .ok pin => .next (s.answer (.pin pin))

/-- `DECODE pb, pan` (R203). -/
def execDecode (s : State) : Host.Outcome State Fault Refusal := runDecode Config.params s

end Sys2Proof.Machine
end

