-- ==== Sys2Proof/Machine/PinField.lean ====
section
/-!
DEFINITION. The PIN-field nibble encoder (spec/41_pin_field.md R120 to R126) and the two PIN checks that guard it
(spec/40_encode_command.md R103, R104).
-/
namespace Sys2Proof.Machine

/-- Steps 2 and 3 of `Encode`: the length first, then the characters (R103, R104). `none` when both pass. -/
def pinCheck (pin : Chars) : Option PinReason :=
  if pin.length < 4 ∨ 12 < pin.length then some .length
  else if ¬ pin.all isDigit then some .nonNumeric
  else none

/-- Fill nibble `j` of format `f`: the constant minFill when the fill is constant, the draw `rnd[j]` otherwise
(R125, R126). -/
def fillNibble (f : Format) (rnd : Vector Nibble 10) (j : Nat) : Nibble :=
  if fillIsConstant f then (fmtTable f).minFill else drawAt rnd j

/-- `PinField(fmt, pin, rnd)` (R120): marker, length, digits and fill, each of the 16 indices written once (R124).
Run only after `pinCheck` passed. -/
def pinField (f : Format) (pin : Chars) (rnd : Vector Nibble 10) : Field :=
  Vector.ofFn fun (i : Fin 16) =>
    if i.val = 0 then (fmtTable f).marker
    else if i.val = 1 then BitVec.ofNat 4 pin.length
    else if i.val < 2 + pin.length then digVal (charAt pin (i.val - 2))
    else fillNibble f rnd (i.val - 2 - pin.length)

end Sys2Proof.Machine
end

