-- ==== Sys2Proof/Machine/Encode.lean ====
section
/-!
DEFINITION. The ENCODE family (spec/40_encode_command.md): the common procedure R100 and the four commands
R106 to R109.
-/
namespace Sys2Proof.Machine

/-- `Encode(fmt, pin, pan, rnd)` (R100). Steps 1 to 6 are the checks in the priority of R226
(notes/assumptions/9.md); steps 7 to 11 build the PIN field, the PAN field and their XOR, and render it. -/
def encodeBlock (f : Format) (pin : Chars) (pan : Option Chars) (rnd : Vector Nibble 10) :
    Except CodecFault (Vector Byte 16) :=
  if ¬ (fmtTable f).implemented then .error (.unsupportedFormat .encFormat)
  else
    match pinCheck pin with
    | some r => .error (.invalidPin r)
    | none =>
      match panCheck pan with
      | .error r => .error (.invalidPan r)
      | .ok pan => .ok (hexRender (xor16 (pinField f pin rnd) (panField pan)))

/-- One ENCODE command of format `f` on an instance with parameters `p`: a fault is taken (R230), a block is
answered. Outside the port contract there is no step (R240); the draws are looked at only when they are read, after
every check has passed (R109). -/
def runEncode (p : Params) (f : Format) (s : State) : Host.Outcome State Fault Refusal :=
  if ¬ s.inp.withinCaps p then .fault .inputBeyondCapacity
  else
    match encodeBlock f s.inp.pin s.inp.pan s.inp.rnd with
    | .error e => .next (s.takeFault e)
    | .ok hex =>
      if drawsAdmitted p.fillExcludesMax f s.inp.pin.length s.inp.rnd then .next (s.answer (.block hex))
      else .fault .drawNotAdmitted

/-- `ENCODE.ISO0 pin, pan` (R106). -/
def execEncodeIso0 (s : State) : Host.Outcome State Fault Refusal := runEncode Config.params .iso0 s

/-- `ENCODE.ISO1 pin, pan` (R107): always takes `UnsupportedFormat(ENC_FORMAT)`. -/
def execEncodeIso1 (s : State) : Host.Outcome State Fault Refusal := runEncode Config.params .iso1 s

/-- `ENCODE.ISO2 pin, pan` (R108): always takes `UnsupportedFormat(ENC_FORMAT)`. -/
def execEncodeIso2 (s : State) : Host.Outcome State Fault Refusal := runEncode Config.params .iso2 s

/-- `ENCODE.ISO3 pin, pan, rnd` (R109). -/
def execEncodeIso3 (s : State) : Host.Outcome State Fault Refusal := runEncode Config.params .iso3 s

end Sys2Proof.Machine
end

