-- ==== Sys2Proof/Machine/Dispatch.lean ====
section
/-!
DEFINITION. The dispatch: one arm per command (spec/30_encoding.md R71).
-/
namespace Sys2Proof.Machine

def exec (i : Instr) (s : State) : Host.Outcome State Fault Refusal :=
  match i with
  | .encodeIso0 => Sys2Proof.Machine.execEncodeIso0 s
  | .encodeIso1 => Sys2Proof.Machine.execEncodeIso1 s
  | .encodeIso2 => Sys2Proof.Machine.execEncodeIso2 s
  | .encodeIso3 => Sys2Proof.Machine.execEncodeIso3 s
  | .decode => Sys2Proof.Machine.execDecode s

end Sys2Proof.Machine
end

