-- ==== Sys2Proof/Machine/HostPort.lean ====
section
/-!
DEFINITION. What the host can do to an instance between two commands, and nothing more (spec/70_reset_and_hazards.md
R260 to R264): present an input record, and reset.
-/
namespace Sys2Proof.Machine

/-- The host drives the input ports with the record `r` for the next command (R29 to R33, R264). -/
def State.present (s : State) (r : Inputs) : State := { s with inp := r }

/-- The command word alone, the other input ports as they are (R29). -/
def State.presentCmd (s : State) (w : BitVec 3) : State := s.present { s.inp with cmd := w }

/-- Reset, an event between commands: its only effect is on the output ports (R260, R262). -/
def State.applyReset (s : State) : State := { s with out := Outputs.reset }

/-- The block the host reads from `out_hex` as the string it copies to `pb`, of length 16 (R87). -/
def Outputs.hexChars (o : Outputs) : Chars := o.outHex.toList

/-- The PIN the host reads from `out_pin`: its first `out_pin.len` characters (R35). -/
def Outputs.pinChars (o : Outputs) : Chars := o.outPinCh.toList.take o.outPinLen.toNat

end Sys2Proof.Machine
end

