-- ==== Sys2Proof/Machine/Step.lean ====
section
/-!
DEFINITION. One step: the command on the `cmd` port runs on the input record, as one atomic step
(spec/00_scope.md R8, spec/10_state.md R25). There is no program counter and no fetch.
-/
namespace Sys2Proof.Machine

/-- One command: the word on `cmd` selects it (R25, R70), and it runs to its outcome in one step (R8;
notes/assumptions/7.md, notes/assumptions/10.md). -/
def step (s : State) : Host.Outcome State Fault Refusal := exec (decodeCmd s.inp.cmd) s

/-- The command word `w` on the `cmd` port, where the next step reads its command; every other port as it was
(notes/assumptions/7.md). -/
def State.withFetchWord (s : State) (nbits w : Nat) : State := s.presentCmd (BitVec.ofNat 3 (w % 2 ^ nbits))

end Sys2Proof.Machine
end

