-- ==== Sys2Proof/Machine/Session.lean ====
section
/-!
DEFINITION. Commands one after another on one instance, and several instances side by side (spec/20_memory.md R58,
spec/10_state.md R40, spec/70_reset_and_hazards.md R266).
-/
namespace Sys2Proof.Machine

/-- The host presents `r` and the core runs it (R264, R266). -/
def runCommand (s : State) (r : Inputs) : Host.Outcome State Fault Refusal := step (s.present r)

/-- Commands presented to one instance one after another, each after the outcome of the one before (R58, R266). -/
def runCommands (s : State) : List Inputs → Host.Outcome State Fault Refusal
  | [] => .next s
  | r :: rs =>
    match runCommand s r with
    | .next t => runCommands t rs
    | .fault e => .fault e
    | .refused e => .refused e

/-- Several instances side by side (R40): instance `k` of `bank` runs the command on its own ports. An index with no
instance runs nothing. DESIGN CHOICE: every instance of the bank has the parameters `Config.params`; R28 and R260 fix
the parameters per instance, and no rule says whether instances side by side may differ in them
(notes/assumptions/14.md). -/
def stepInstance (bank : List State) (k : Nat) : Host.Outcome (List State) Fault Refusal :=
  match bank[k]? with
  | none => .next bank
  | some s =>
    match step s with
    | .next t => .next (bank.set k t)
    | .fault e => .fault e
    | .refused e => .refused e

end Sys2Proof.Machine
end

