-- ==== Sys2Proof/Safety.lean ====
section
/-!
DEFINITION. The terms the claims use: what the output ports may show, the invariant of the machine, and the two
pieces of vocabulary the statements share.
-/
namespace Sys2Proof.Machine

/-- The output ports a step leaves, when it leaves any. -/
def outputsOf : Host.Outcome State Fault Refusal → Option Outputs
  | .next t => some t.out
  | .fault _ => none
  | .refused _ => none

/-- Lane `i` of the PAN field as R56 maps it: 0 in lanes 0 to 3, then the digit at offset `L - 13 + (i - 4)`. -/
def panLane (pan : Chars) (i : Nat) : Nibble :=
  if i < 4 then 0#4 else digVal (charAt pan (pan.length - 13 + (i - 4)))

/-- The output ports of a fault with kind code `status` and reason code `reason`: not valid, no data (R35, R230). -/
def Outputs.faultPorts (status reason : BitVec 3) : Outputs :=
  { Outputs.reset with status := status, reason := reason }

/-- The output ports of a block: valid, no PIN (R35). -/
def Outputs.blockPorts (hex : Vector Byte 16) : Outputs :=
  { Outputs.reset with outValid := true, outHex := hex }

/-- The output ports of a PIN of length `len` in the characters `ch`: valid, no block (R35). -/
def Outputs.pinPorts (len : BitVec 4) (ch : Vector Byte 12) : Outputs :=
  { Outputs.reset with outValid := true, outPinLen := len, outPinCh := ch }

/-- The eleven pairs of a kind code and a reason code that a fault can show (R84, R85, R221). -/
def faultCodes : List (BitVec 3 × BitVec 3) :=
  [(1#3, 1#3), (1#3, 2#3), (2#3, 1#3), (2#3, 2#3), (2#3, 3#3), (3#3, 1#3), (3#3, 2#3),
   (4#3, 1#3), (4#3, 2#3), (4#3, 3#3), (4#3, 4#3)]

/-- The ports show one of the eleven faults and no data. -/
abbrev Outputs.ShowsFault (o : Outputs) : Prop :=
  (o.status, o.reason) ∈ faultCodes ∧ o = Outputs.faultPorts o.status o.reason

/-- The ports show a block ENCODE can produce: 16 uppercase hexadecimal characters, the first `0` or `3`, the second
a PIN length, the next two PIN digits in clear (R76, R110, R111). -/
abbrev Outputs.ShowsBlock (o : Outputs) : Prop :=
  o = Outputs.blockPorts o.outHex ∧ (∀ i : Fin 16, isUpperHex o.outHex[i] = true) ∧
    (o.outHex[0] = 0x30#8 ∨ o.outHex[0] = 0x33#8) ∧
    4#4 ≤ hexVal o.outHex[1] ∧ hexVal o.outHex[1] ≤ 12#4 ∧
    isDigit o.outHex[2] = true ∧ isDigit o.outHex[3] = true

/-- The ports show a PIN: 4 to 12 decimal digits, 0x00 beyond them (R34, R35, R201). -/
abbrev Outputs.ShowsPin (o : Outputs) : Prop :=
  o = Outputs.pinPorts o.outPinLen o.outPinCh ∧ 4#4 ≤ o.outPinLen ∧ o.outPinLen ≤ 12#4 ∧
    ∀ k : Fin 12, if k.val < o.outPinLen.toNat then isDigit o.outPinCh[k] = true else o.outPinCh[k] = 0#8

/-- The invariant of the machine: the output ports are as after reset or show an outcome of R34. -/
abbrev State.PortsLegal (s : State) : Prop :=
  s.out = Outputs.reset ∨ s.out.ShowsFault ∨ s.out.ShowsBlock ∨ s.out.ShowsPin

end Sys2Proof.Machine
end

