-- ==== Sys2Proof/Certificates/Slice0/Obligations.lean ====
section
/-!
DEFINITION. The statements for the provers, taken from the numbered rules of spec/. Where a statement is about
`exec` or `step` it is about the instance `Config.params`: `HEX_LOWER_OK` open, `FILL_EXCLUDES_MAX` = false, unbounded
ports (notes/assumptions/3.md to 5.md).
-/

open Sys2Proof Sys2Proof.Machine

/-! ### The command word -/

/-- R71: the eight command words and the commands they name, written out from the map. -/
def Obligations.CommandWordsDecode : Prop :=
  decodeCmd 0b000#3 = .encodeIso0 ∧ decodeCmd 0b001#3 = .encodeIso1 ∧
  decodeCmd 0b010#3 = .encodeIso2 ∧ decodeCmd 0b011#3 = .encodeIso3 ∧
  decodeCmd 0b100#3 = .decode ∧ decodeCmd 0b101#3 = .decode ∧
  decodeCmd 0b110#3 = .decode ∧ decodeCmd 0b111#3 = .decode

/-- R72: DECODE ignores `cmd[1:0]`: every word with `cmd[2]` = 1 is the same command, with the same outcome. -/
def Obligations.DecodeIgnoresFormatBits : Prop :=
  ∀ w : BitVec 3, w.getLsbD 2 = true →
    decodeCmd w = .decode ∧
    ∀ s : State, outputsOf (step (s.presentCmd w)) = outputsOf (step (s.presentCmd 0b100#3))

/-- R25, R70: a step runs exactly the command whose word stands on the `cmd` port; nothing is fetched or advanced. -/
def Obligations.StepRunsPresentedCommand : Prop :=
  ∀ (s : State) (i : Instr),
    (decodeNumber s.inp.cmd.toNat = .ok i → step s = exec i s) ∧
    step (s.presentCmd (encodeCmd i)) = exec i (s.presentCmd (encodeCmd i))

/-- R71, column "operands read": the outcome of a command depends on the operands it reads and on no other port, nor
on the output ports before it. -/
def Obligations.OutcomeDependsOnOperandsRead : Prop :=
  ∀ s s' : State,
    (s.inp.pin = s'.inp.pin → s.inp.pan = s'.inp.pan →
      outputsOf (exec .encodeIso0 s) = outputsOf (exec .encodeIso0 s')) ∧
    outputsOf (exec .encodeIso1 s) = outputsOf (exec .encodeIso1 s') ∧
    outputsOf (exec .encodeIso2 s) = outputsOf (exec .encodeIso2 s') ∧
    (s.inp.pin = s'.inp.pin → s.inp.pan = s'.inp.pan →
      (∀ j, j < 14 - s.inp.pin.length → drawAt s.inp.rnd j = drawAt s'.inp.rnd j) →
      outputsOf (exec .encodeIso3 s) = outputsOf (exec .encodeIso3 s')) ∧
    (s.inp.pb = s'.inp.pb → s.inp.pan = s'.inp.pan →
      outputsOf (exec .decode s) = outputsOf (exec .decode s'))

/-! ### The ENCODE commands -/

/-- R106: with a well-formed PIN and PAN, ENCODE.ISO0 completes, and this is its block, character by character. -/
def Obligations.EncodeIso0Result : Prop :=
  ∀ (s : State) (pan : Chars), pinWf s.inp.pin = true → s.inp.pan = some pan → panWf (some pan) = true →
    ∃ hex : Vector Byte 16,
      exec .encodeIso0 s = .next { s with out := Outputs.blockPorts hex } ∧
      hex[0] = 0x30#8 ∧ hex[1] = hexChar (BitVec.ofNat 4 s.inp.pin.length) ∧
      (∀ k, k < s.inp.pin.length →
        hex[2 + k]? = some (hexChar (digVal (charAt s.inp.pin k) ^^^ panLane pan (2 + k)))) ∧
      (∀ j, j < 14 - s.inp.pin.length →
        hex[2 + s.inp.pin.length + j]? =
          some (hexChar (15#4 ^^^ panLane pan (2 + s.inp.pin.length + j))))

/-- R109: with a well-formed PIN and PAN, ENCODE.ISO3 completes, and this is its block: marker 3, fill nibble `j` the
draw `rnd[j]`. Every draw is admitted, because the model takes the default `FILL_EXCLUDES_MAX` = false
(notes/assumptions/4.md). -/
def Obligations.EncodeIso3Result : Prop :=
  ∀ (s : State) (pan : Chars), pinWf s.inp.pin = true → s.inp.pan = some pan → panWf (some pan) = true →
    ∃ hex : Vector Byte 16,
      exec .encodeIso3 s = .next { s with out := Outputs.blockPorts hex } ∧
      hex[0] = 0x33#8 ∧ hex[1] = hexChar (BitVec.ofNat 4 s.inp.pin.length) ∧
      (∀ k, k < s.inp.pin.length →
        hex[2 + k]? = some (hexChar (digVal (charAt s.inp.pin k) ^^^ panLane pan (2 + k)))) ∧
      (∀ j, j < 14 - s.inp.pin.length →
        hex[2 + s.inp.pin.length + j]? =
          some (hexChar (drawAt s.inp.rnd j ^^^ panLane pan (2 + s.inp.pin.length + j))))

/-- R102: ENCODE.ISO1 and ENCODE.ISO2 take `UnsupportedFormat(ENC_FORMAT)` whatever the ports hold. -/
def Obligations.UnimplementedFormatsAlwaysFault : Prop :=
  ∀ (i : Instr) (s : State), i = .encodeIso1 ∨ i = .encodeIso2 →
    exec i s = .next { s with out := Outputs.faultPorts 3#3 1#3 }

/-- R103: `InvalidPin(LENGTH)` exactly when the PIN has fewer than 4 or more than 12 characters, whatever they are. -/
def Obligations.PinLengthOutsideFourToTwelveFaults : Prop :=
  ∀ (i : Instr) (s : State), i = .encodeIso0 ∨ i = .encodeIso3 →
    (s.inp.pin.length < 4 ∨ 12 < s.inp.pin.length →
      exec i s = .next { s with out := Outputs.faultPorts 1#3 1#3 }) ∧
    (4 ≤ s.inp.pin.length ∧ s.inp.pin.length ≤ 12 →
      outputsOf (exec i s) ≠ some (Outputs.faultPorts 1#3 1#3))

/-- R104: a PIN of an accepted length with a code outside 0x30 to 0x39 anywhere is `InvalidPin(NON_NUMERIC)`, and a
PIN of digits only is not. -/
def Obligations.NonDigitInPinFaults : Prop :=
  ∀ (i : Instr) (s : State), i = .encodeIso0 ∨ i = .encodeIso3 →
    4 ≤ s.inp.pin.length → s.inp.pin.length ≤ 12 →
    ((∃ c ∈ s.inp.pin, c.toNat < 0x30 ∨ 0x39 < c.toNat) →
      exec i s = .next { s with out := Outputs.faultPorts 1#3 2#3 }) ∧
    ((∀ c ∈ s.inp.pin, 0x30 ≤ c.toNat ∧ c.toNat ≤ 0x39) →
      outputsOf (exec i s) ≠ some (Outputs.faultPorts 1#3 2#3))

/-- R105: the three PAN checks of ENCODE.ISO0 and ENCODE.ISO3, the PIN being well-formed. -/
def Obligations.EncodeRequiresUsablePan : Prop :=
  ∀ (i : Instr) (s : State), i = .encodeIso0 ∨ i = .encodeIso3 → pinWf s.inp.pin = true →
    (s.inp.pan = none → exec i s = .next { s with out := Outputs.faultPorts 2#3 1#3 }) ∧
    (∀ pan, s.inp.pan = some pan → pan.length < 13 →
      exec i s = .next { s with out := Outputs.faultPorts 2#3 2#3 }) ∧
    (∀ pan k, s.inp.pan = some pan → 13 ≤ pan.length → pan.length - 13 ≤ k → k < pan.length →
      isDigit (charAt pan k) = false → exec i s = .next { s with out := Outputs.faultPorts 2#3 3#3 })

/-- R226: the codes an ENCODE command reports are those of the first check that fails, in the order of the rule, and
0, 0 when none does. The fixed order is the model's choice (notes/assumptions/9.md): R226 also lets a model admit any of
the failing kinds. -/
def Obligations.EncodeReportsFirstFailingCheck : Prop :=
  ∀ (i : Instr) (s t : State), i ≠ .decode → exec i s = .next t →
    (t.out.status, t.out.reason) =
      if i = .encodeIso1 ∨ i = .encodeIso2 then (3#3, 1#3)
      else if s.inp.pin.length < 4 ∨ 12 < s.inp.pin.length then (1#3, 1#3)
      else if s.inp.pin.all isDigit = false then (1#3, 2#3)
      else
        match s.inp.pan with
        | none => (2#3, 1#3)
        | some pan =>
          if pan.length < 13 then (2#3, 2#3)
          else if (pan.drop (pan.length - 13)).all isDigit = false then (2#3, 3#3)
          else (0#3, 0#3)

/-- R110: a block ENCODE answers is 16 characters, each `0` to `9` or `A` to `F`. -/
def Obligations.EncodedBlockIsUppercaseHex : Prop :=
  ∀ (i : Instr) (s t : State), i ≠ .decode → exec i s = .next t → t.out.outValid = true →
    ∀ k : Fin 16,
      (0x30 ≤ t.out.outHex[k].toNat ∧ t.out.outHex[k].toNat ≤ 0x39) ∨
      (0x41 ≤ t.out.outHex[k].toNat ∧ t.out.outHex[k].toNat ≤ 0x46)

/-- R111: characters 0 to 3 of a block show the marker, the PIN length and the first two PIN digits in clear. -/
def Obligations.BlockShowsMarkerLengthAndTwoDigits : Prop :=
  ∀ (i : Instr) (s t : State), i ≠ .decode → exec i s = .next t → t.out.outValid = true →
    t.out.outHex[0] = (if i = .encodeIso3 then 0x33#8 else 0x30#8) ∧
    t.out.outHex[1] = hexChar (BitVec.ofNat 4 s.inp.pin.length) ∧
    t.out.outHex[2] = charAt s.inp.pin 0 ∧ t.out.outHex[3] = charAt s.inp.pin 1

/-- R109, corner case: with every draw it reads equal to 15, ENCODE.ISO3 differs from ENCODE.ISO0 on the same operands
only in the first character. That a draw of 15 is admitted is the model's choice of the default
`FILL_EXCLUDES_MAX` = false (notes/assumptions/4.md). -/
def Obligations.Iso3WithDrawsOfFifteenMatchesIso0 : Prop :=
  ∀ s : State, pinWf s.inp.pin = true → panWf s.inp.pan = true →
    (∀ j, j < 14 - s.inp.pin.length → drawAt s.inp.rnd j = 15#4) →
    ∃ hex hex' : Vector Byte 16,
      exec .encodeIso0 s = .next { s with out := Outputs.blockPorts hex } ∧
      exec .encodeIso3 s = .next { s with out := Outputs.blockPorts hex' } ∧
      hex[0] = 0x30#8 ∧ hex'[0] = 0x33#8 ∧ ∀ k : Fin 16, k ≠ 0 → hex[k] = hex'[k]

/-- After R127, for every instance: with valid operands ENCODE.ISO3 completes when every draw it reads is admitted, 0 to
15 or, with `FILL_EXCLUDES_MAX`, 0 to 14; a read draw of 15 under `FILL_EXCLUDES_MAX` has no step. That only the draws
the command reads count, and that having no step is the named stop `drawNotAdmitted`, are the model's reading
(notes/assumptions/6.md); R127 speaks of any draw the host presents. -/
def Obligations.DrawOutsideAdmittedSetHasNoStep : Prop :=
  ∀ (p : Params) (s : State), s.inp.withinCaps p = true → pinWf s.inp.pin = true → panWf s.inp.pan = true →
    ((p.fillExcludesMax = false ∨ ∀ j, j < 14 - s.inp.pin.length → drawAt s.inp.rnd j ≤ 14#4) →
      ∃ hex, runEncode p .iso3 s = .next { s with out := Outputs.blockPorts hex }) ∧
    (p.fillExcludesMax = true → (∃ j, j < 14 - s.inp.pin.length ∧ drawAt s.inp.rnd j = 15#4) →
      runEncode p .iso3 s = .fault .drawNotAdmitted)

/-! ### The units -/

/-- R27: the format descriptor table, the marker equal to the format's ordinal. -/
def Obligations.FormatTableContents : Prop :=
  fmtTable .iso0 = ⟨0#4, 15#4, 15#4, true⟩ ∧ fmtTable .iso1 = ⟨1#4, 15#4, 15#4, false⟩ ∧
  fmtTable .iso2 = ⟨2#4, 15#4, 15#4, false⟩ ∧ fmtTable .iso3 = ⟨3#4, 0#4, 15#4, true⟩ ∧
  (∀ f : Format, (fmtTable f).marker = (formatNumber f).setWidth 4) ∧
  (∀ f : Format, fillIsConstant f = true ↔ f ≠ .iso3)

/-- R122 to R126: the PIN field lane by lane: the length, the digits in order, the constant fill of ISO-0 and the
drawn fill of ISO-3 up to index 15. -/
def Obligations.PinFieldLanes : Prop :=
  ∀ (pin : Chars) (rnd : Vector Nibble 10), pinWf pin = true →
    (∀ f : Format, (nibbleAt (pinField f pin rnd) 0 = (fmtTable f).marker) ∧
      (nibbleAt (pinField f pin rnd) 1).toNat = pin.length ∧
      ∀ k, k < pin.length → (nibbleAt (pinField f pin rnd) (2 + k)).toNat = (charAt pin k).toNat - 0x30) ∧
    (∀ j, j < 14 - pin.length → (pinField .iso0 pin rnd)[2 + pin.length + j]? = some 15#4) ∧
    (∀ j, j < 14 - pin.length → (pinField .iso3 pin rnd)[2 + pin.length + j]? = some (drawAt rnd j))

/-- R129: the invariants of every PIN field the unit builds for ENCODE, for each value of `FILL_EXCLUDES_MAX`. -/
def Obligations.PinFieldRanges : Prop :=
  ∀ (excludesMax : Bool) (f : Format) (pin : Chars) (rnd : Vector Nibble 10),
    f = .iso0 ∨ f = .iso3 → pinWf pin = true → drawsAdmitted excludesMax f pin.length rnd = true →
    (let F := pinField f pin rnd
     (F[0] = 0#4 ∨ F[0] = 3#4) ∧ 4 ≤ F[1].toNat ∧ F[1].toNat ≤ 12 ∧
     (∀ i : Fin 16, 2 ≤ i.val → i.val ≤ 1 + F[1].toNat → F[i] ≤ 9#4) ∧
     (∀ i : Fin 16, 2 + F[1].toNat ≤ i.val → f = .iso0 → F[i] = 15#4) ∧
     (∀ i : Fin 16, 2 + F[1].toNat ≤ i.val → f = .iso3 → excludesMax = true → F[i] ≤ 14#4))

/-- R130: the PIN is read back from the field alone, by its length nibble and its digit nibbles. -/
def Obligations.PinReadBackFromField : Prop :=
  ∀ (f : Format) (pin : Chars) (rnd : Vector Nibble 10), pinWf pin = true →
    decRender (nibbleAt (pinField f pin rnd) 1).toNat (pinField f pin rnd) = pin

/-- R145: window character `k`, 13 characters from the end on, goes to lane `4 + k`; the check digit goes nowhere. -/
def Obligations.PanWindowFillsLanesFourToFifteen : Prop :=
  (∀ (pan : Chars) (k : Nat), panWf (some pan) = true → k < 12 →
    (nibbleAt (panField pan) (4 + k)).toNat = (charAt pan (pan.length - 13 + k)).toNat - 0x30) ∧
  (∀ (front : Chars) (c c' : Byte), 12 ≤ front.length → panField (front ++ [c]) = panField (front ++ [c']))

/-- R147: lanes 0 to 3 of the PAN field are 0 for every PAN; lanes 4 to 15 of a checked PAN are 0 to 9. -/
def Obligations.PanFieldLeadingLanesAreZero : Prop :=
  ∀ pan : Chars,
    (panField pan)[0] = 0#4 ∧ (panField pan)[1] = 0#4 ∧ (panField pan)[2] = 0#4 ∧ (panField pan)[3] = 0#4 ∧
    (panWf (some pan) = true → ∀ i : Fin 16, 4 ≤ i.val → (panField pan)[i] ≤ 9#4)

/-- R148: two PANs of at least 13 characters with the same last 13 are interchangeable for every command, and two
that differ only in the check digit give the same field. -/
def Obligations.PansWithSameTailAreInterchangeable : Prop :=
  (∀ (pan pan' : Chars) (i : Instr) (s : State), 13 ≤ pan.length → 13 ≤ pan'.length →
    pan.drop (pan.length - 13) = pan'.drop (pan'.length - 13) →
    outputsOf (exec i (s.present { s.inp with pan := some pan })) =
      outputsOf (exec i (s.present { s.inp with pan := some pan' }))) ∧
  (∀ (front : Chars) (c c' : Byte), 12 ≤ front.length → panField (front ++ [c]) = panField (front ++ [c']))

/-- R162: the laws of the XOR, on nibbles and on fields. -/
def Obligations.XorCombinerLaws : Prop :=
  (∀ a b : Nibble, a ^^^ 0#4 = a ∧ a ^^^ a = 0#4 ∧ a ^^^ b = b ^^^ a ∧ (a ^^^ b) ^^^ b = a) ∧
  (∀ A B : Field, xor16 A B = xor16 B A ∧ xor16 (xor16 A B) B = A)

/-- R163: (a) the first four lanes pass unchanged; (b) the same PAN field recovers the PIN field; (c) another PAN
field recovers it in exactly the lanes where the two PAN fields agree, lanes 0 to 3 among them. -/
def Obligations.XorWithPanFieldConsequences : Prop :=
  ∀ (F : Field) (pan pan' : Chars),
    (∀ i : Fin 16, i.val < 4 → (xor16 F (panField pan))[i] = F[i]) ∧
    xor16 (xor16 F (panField pan)) (panField pan) = F ∧
    xor16 (xor16 F (panField pan)) (panField pan') = xor16 F (xor16 (panField pan) (panField pan')) ∧
    (∀ i : Fin 16, (xor16 (xor16 F (panField pan)) (panField pan'))[i] ≠ F[i] ↔
      (panField pan)[i] ≠ (panField pan')[i]) ∧
    (∀ i : Fin 16, i.val < 4 → (xor16 (xor16 F (panField pan)) (panField pan'))[i] = F[i])

/-- R52, R160: the combiner is one 64-bit XOR of the packed views, nibble `i` of a field standing in bits `63 - 4i`
down to `60 - 4i` of its view, and byte `k` in bits `63 - 8k` down to `56 - 8k`. -/
def Obligations.XorCombinerIsOnePackedXor : Prop :=
  (∀ A B : Field, packField (xor16 A B) = packField A ^^^ packField B) ∧
  (∀ (F : Field) (i : Fin 16), (packField F).extractLsb' (60 - 4 * i.val) 4 = F[i]) ∧
  (∀ (F : Field) (k : Fin 8), packedByte F k = (packField F).extractLsb' (56 - 8 * k.val) 8)

/-- R171: the character code of each of the 16 nibble values. -/
def Obligations.HexCharacterCodes : Prop :=
  (List.range 16).map (fun v => (hexChar (BitVec.ofNat 4 v)).toNat) =
    [0x30, 0x31, 0x32, 0x33, 0x34, 0x35, 0x36, 0x37, 0x38, 0x39, 0x41, 0x42, 0x43, 0x44, 0x45, 0x46]

/-- R176: which codes are hexadecimal digits and their values, under either value of `HEX_LOWER_OK`; the parser undoes
the renderer, and the renderer gives back a parsed block with its lower-case letters raised. -/
def Obligations.HexParserAcceptsAndInverts : Prop :=
  ∀ lowerOk : Bool,
    (∀ c : Byte, isHex lowerOk c = true ↔
      (0x30 ≤ c.toNat ∧ c.toNat ≤ 0x39) ∨ (0x41 ≤ c.toNat ∧ c.toNat ≤ 0x46) ∨
      (lowerOk = true ∧ 0x61 ≤ c.toNat ∧ c.toNat ≤ 0x66)) ∧
    (∀ c : Byte, isHex lowerOk c = true →
      (hexVal c).toNat =
        if c.toNat ≤ 0x39 then c.toNat - 0x30
        else if c.toNat ≤ 0x46 then c.toNat - 0x41 + 10
        else c.toNat - 0x61 + 10) ∧
    (∀ B : Field, hexParse lowerOk (hexRender B).toList = .ok B) ∧
    (∀ pb : Chars, pb.length = 16 → pb.all (isHex lowerOk) = true →
      ∃ B, hexParse lowerOk pb = .ok B ∧
        (hexRender B).toList = pb.map fun c => if isLowerHex c = true then c - 0x20#8 else c)

/-- R180: the decimal renderer gives `n` characters, character `k` being 0x30 + `d[k]`, leading zeros kept. -/
def Obligations.DecimalRendererCharacters : Prop :=
  ∀ (n : Nat) (F : Field), n ≤ 12 → (∀ k, k < n → nibbleAt F (2 + k) ≤ 9#4) →
    (decRender n F).length = n ∧
    ∀ k, k < n → (charAt (decRender n F) k).toNat = 0x30 + (nibbleAt F (2 + k)).toNat

/-! ### The DECODE command -/

/-- R201: a block of 16 hexadecimal characters with marker 0 or 3, a PAN that passes its checks, a recovered length 4
to 12 and recovered digits 0 to 9 decode, and this is the PIN. Where it came from and what its fill is are not
asked. -/
def Obligations.DecodeResult : Prop :=
  ∀ (s : State) (pan : Chars) (n : Nat), blockWf Config.hexLowerOk s.inp.pb = true →
    s.inp.pan = some pan → panWf (some pan) = true →
    n = (hexVal (charAt s.inp.pb 1)).toNat → 4 ≤ n → n ≤ 12 →
    (∀ k, k < n → hexVal (charAt s.inp.pb (2 + k)) ^^^ panLane pan (2 + k) ≤ 9#4) →
    ∃ ch : Vector Byte 12,
      exec .decode s = .next { s with out := Outputs.pinPorts (BitVec.ofNat 4 n) ch } ∧
      ∀ k : Fin 12, ch[k] =
        if k.val < n then digChar (hexVal (charAt s.inp.pb (2 + k)) ^^^ panLane pan (2 + k)) else 0#8

/-- R191: a block of any length but 16 is `InvalidPinblock(LENGTH)`, before anything else is looked at. -/
def Obligations.BlockLengthOtherThanSixteenFaults : Prop :=
  ∀ s : State,
    (s.inp.pb.length ≠ 16 → exec .decode s = .next { s with out := Outputs.faultPorts 4#3 1#3 }) ∧
    (s.inp.pb.length = 16 → outputsOf (exec .decode s) ≠ some (Outputs.faultPorts 4#3 1#3))

/-- R192: of a 16-character block the raw first character alone decides `UnsupportedFormat(DEC_MARKER)`: any code but
`0` and `3`, whatever the other characters and the PAN are. -/
def Obligations.RawMarkerOtherThanZeroOrThreeFaults : Prop :=
  ∀ s : State, s.inp.pb.length = 16 →
    (charAt s.inp.pb 0 ≠ 0x30#8 → charAt s.inp.pb 0 ≠ 0x33#8 →
      exec .decode s = .next { s with out := Outputs.faultPorts 3#3 2#3 }) ∧
    (charAt s.inp.pb 0 = 0x30#8 ∨ charAt s.inp.pb 0 = 0x33#8 →
      outputsOf (exec .decode s) ≠ some (Outputs.faultPorts 3#3 2#3))

/-- R193, R175: a 16-character block with marker 0 or 3 and a character that is no hexadecimal digit is
`InvalidPinblock(BAD_CHAR)`, whatever the PAN is, and one of hexadecimal digits only is not. That a defect of the PAN is
then not reported is the order of R227 (notes/assumptions/9.md). -/
def Obligations.NonHexBlockCharacterFaults : Prop :=
  ∀ s : State, s.inp.pb.length = 16 → charAt s.inp.pb 0 = 0x30#8 ∨ charAt s.inp.pb 0 = 0x33#8 →
    ((∃ c ∈ s.inp.pb, isHex Config.hexLowerOk c = false) →
      exec .decode s = .next { s with out := Outputs.faultPorts 4#3 2#3 }) ∧
    ((∀ c ∈ s.inp.pb, isHex Config.hexLowerOk c = true) →
      outputsOf (exec .decode s) ≠ some (Outputs.faultPorts 4#3 2#3))

/-- R194: the same three PAN checks as ENCODE, the block having parsed. -/
def Obligations.DecodeRequiresUsablePan : Prop :=
  ∀ s : State, blockWf Config.hexLowerOk s.inp.pb = true →
    (s.inp.pan = none → exec .decode s = .next { s with out := Outputs.faultPorts 2#3 1#3 }) ∧
    (∀ pan, s.inp.pan = some pan → pan.length < 13 →
      exec .decode s = .next { s with out := Outputs.faultPorts 2#3 2#3 }) ∧
    (∀ pan k, s.inp.pan = some pan → 13 ≤ pan.length → pan.length - 13 ≤ k → k < pan.length →
      isDigit (charAt pan k) = false → exec .decode s = .next { s with out := Outputs.faultPorts 2#3 3#3 })

/-- R199: the recovered length is the value of the block's second character; outside 4 to 12 it is
`InvalidPinblock(PINLEN_RANGE)`, whatever the PAN, and inside it never is. -/
def Obligations.RecoveredLengthOutsideFourToTwelveFaults : Prop :=
  ∀ s : State, blockWf Config.hexLowerOk s.inp.pb = true → panWf s.inp.pan = true →
    ((hexVal (charAt s.inp.pb 1)).toNat < 4 ∨ 12 < (hexVal (charAt s.inp.pb 1)).toNat →
      exec .decode s = .next { s with out := Outputs.faultPorts 4#3 3#3 }) ∧
    (4 ≤ (hexVal (charAt s.inp.pb 1)).toNat ∧ (hexVal (charAt s.inp.pb 1)).toNat ≤ 12 →
      outputsOf (exec .decode s) ≠ some (Outputs.faultPorts 4#3 3#3))

/-- R200: a recovered digit above 9 is `InvalidPinblock(DIGIT_RANGE)`. -/
def Obligations.RecoveredDigitAboveNineFaults : Prop :=
  ∀ (s : State) (pan : Chars) (n k : Nat), blockWf Config.hexLowerOk s.inp.pb = true →
    s.inp.pan = some pan → panWf (some pan) = true →
    n = (hexVal (charAt s.inp.pb 1)).toNat → 4 ≤ n → n ≤ 12 → k < n →
    9#4 < hexVal (charAt s.inp.pb (2 + k)) ^^^ panLane pan (2 + k) →
    exec .decode s = .next { s with out := Outputs.faultPorts 4#3 4#3 }

/-- R227: the codes DECODE reports are those of the first check that fails, in the order of the rule, and 0, 0 when
none does. The fixed order is the model's choice (notes/assumptions/9.md), and of the eight positions R227 calls the
first the spec's own; only the order of 2, 3 and the PAN checks is that of the document's steps. -/
def Obligations.DecodeReportsFirstFailingCheck : Prop :=
  ∀ s t : State, exec .decode s = .next t →
    (t.out.status, t.out.reason) =
      if s.inp.pb.length ≠ 16 then (4#3, 1#3)
      else if charAt s.inp.pb 0 ≠ 0x30#8 ∧ charAt s.inp.pb 0 ≠ 0x33#8 then (3#3, 2#3)
      else if s.inp.pb.all (isHex Config.hexLowerOk) = false then (4#3, 2#3)
      else
        match s.inp.pan with
        | none => (2#3, 1#3)
        | some pan =>
          if pan.length < 13 then (2#3, 2#3)
          else if (pan.drop (pan.length - 13)).all isDigit = false then (2#3, 3#3)
          else if hexVal (charAt s.inp.pb 1) < 4#4 ∨ 12#4 < hexVal (charAt s.inp.pb 1) then (4#3, 3#3)
          else if ((List.range (hexVal (charAt s.inp.pb 1)).toNat).any fun k =>
              decide (9#4 < hexVal (charAt s.inp.pb (2 + k)) ^^^ panLane pan (2 + k))) = true then (4#3, 4#3)
          else (0#3, 0#3)

/-- R202: DECODE does not read the fill: two blocks of 16 hexadecimal characters that agree up to the last PIN digit
have the same outcome under the same PAN. -/
def Obligations.DecodeNeverReadsFill : Prop :=
  ∀ s s' : State, s.inp.pan = s'.inp.pan → s.inp.pb.length = 16 → s'.inp.pb.length = 16 →
    s.inp.pb.all (isHex Config.hexLowerOk) = true → s'.inp.pb.all (isHex Config.hexLowerOk) = true →
    (∀ i, i < 2 + (hexVal (charAt s.inp.pb 1)).toNat → charAt s.inp.pb i = charAt s'.inp.pb i) →
    outputsOf (exec .decode s) = outputsOf (exec .decode s')

/-! ### ENCODE and DECODE together -/

/-- R112: ENCODE with a well-formed PIN and PAN answers a block, and DECODE of that block under the same PAN answers
the PIN. R112 takes an admitted `rnd` and an `Ok` from ENCODE as its premises; that ENCODE.ISO3 completes on any draws,
15 included, is the model's choice of the default `FILL_EXCLUDES_MAX` = false (notes/assumptions/4.md). -/
def Obligations.EncodeThenDecodeReturnsPin : Prop :=
  ∀ (i : Instr) (s : State), i = .encodeIso0 ∨ i = .encodeIso3 → pinWf s.inp.pin = true → panWf s.inp.pan = true →
    ∃ t, exec i s = .next t ∧ t.out.outValid = true ∧
      ∀ u : State, u.inp.pb = t.out.hexChars → u.inp.pan = s.inp.pan →
        ∃ v, exec .decode u = .next v ∧ v.inp = u.inp ∧ v.out.outValid = true ∧ v.out.pinChars = s.inp.pin

/-- R204: DECODE of a block ENCODE answered gives its PIN under every PAN with the same last 13 characters. -/
def Obligations.DecodeInvertsEncodeUnderSameTail : Prop :=
  ∀ (i : Instr) (s t u : State) (pan pan' : Chars), i ≠ .decode → exec i s = .next t → t.out.outValid = true →
    s.inp.pan = some pan → 13 ≤ pan'.length →
    pan'.drop (pan'.length - 13) = pan.drop (pan.length - 13) →
    u.inp.pb = t.out.hexChars → u.inp.pan = some pan' →
    ∃ v, exec .decode u = .next v ∧ v.out.outValid = true ∧ v.out.pinChars = s.inp.pin

/-- R206: DECODE with another PAN. Digit `k` comes out XORed with the difference of the two PAN lanes, the first two
digits right; a digit above 9 is `InvalidPinblock(DIGIT_RANGE)`, and otherwise the wrong PIN is answered as `Ok`. -/
def Obligations.DecodeWithAnotherPan : Prop :=
  ∀ (i : Instr) (s t u : State) (pan pan' : Chars), i ≠ .decode → exec i s = .next t → t.out.outValid = true →
    s.inp.pan = some pan → panWf (some pan') = true → u.inp.pb = t.out.hexChars → u.inp.pan = some pan' →
    (let digit := fun k => digVal (charAt s.inp.pin k) ^^^ (panLane pan (2 + k) ^^^ panLane pan' (2 + k))
     ((∃ k, k < s.inp.pin.length ∧ 9#4 < digit k) →
        exec .decode u = .next { u with out := Outputs.faultPorts 4#3 4#3 }) ∧
     ((∀ k, k < s.inp.pin.length → digit k ≤ 9#4) →
        ∃ ch : Vector Byte 12,
          exec .decode u = .next { u with out := Outputs.pinPorts (BitVec.ofNat 4 s.inp.pin.length) ch } ∧
          (∀ k : Fin 12, k.val < s.inp.pin.length → ch[k] = digChar (digit k)) ∧
          ch[0] = charAt s.inp.pin 0 ∧ ch[1] = charAt s.inp.pin 1))

/-! ### The ports, the faults and the whole machine -/

/-- The three columns of R35: what the output ports carry for each of the three outcomes. R35 says that the port list
and the 0x00 padding are the spec's own (92_eei_decisions.md D16). -/
def Obligations.OutputPortsOfEachOutcome : Prop :=
  (∀ hex, Outputs.ofReply (.block hex) =
    ⟨0#3, 0#3, true, hex, 0#4, Vector.replicate 12 0#8⟩) ∧
  (∀ pin : Chars, pin.length ≤ 12 →
    ∃ ch : Vector Byte 12,
      Outputs.ofReply (.pin pin) =
        ⟨0#3, 0#3, true, Vector.replicate 16 0#8, BitVec.ofNat 4 pin.length, ch⟩ ∧
      ∀ k : Fin 12, ch[k] = if k.val < pin.length then charAt pin k else 0#8) ∧
  (∀ f, Outputs.ofReply (.fault f) =
    ⟨kindCode f, reasonCode f, false, Vector.replicate 16 0#8, 0#4, Vector.replicate 12 0#8⟩)

/-- R84, R85: the code of each kind and of each reason; no command ever reports a kind code above 4, and `OK` comes
with reason 0. -/
def Obligations.KindAndReasonCodes : Prop :=
  (∀ r, kindCode (.invalidPin r) = 1#3) ∧ (∀ r, kindCode (.invalidPan r) = 2#3) ∧
  (∀ r, kindCode (.unsupportedFormat r) = 3#3) ∧ (∀ r, kindCode (.invalidPinblock r) = 4#3) ∧
  reasonCode (.invalidPin .length) = 1#3 ∧ reasonCode (.invalidPin .nonNumeric) = 2#3 ∧
  reasonCode (.invalidPan .absent) = 1#3 ∧ reasonCode (.invalidPan .short) = 2#3 ∧
  reasonCode (.invalidPan .nonNumeric) = 3#3 ∧
  reasonCode (.unsupportedFormat .encFormat) = 1#3 ∧ reasonCode (.unsupportedFormat .decMarker) = 2#3 ∧
  reasonCode (.invalidPinblock .length) = 1#3 ∧ reasonCode (.invalidPinblock .badChar) = 2#3 ∧
  reasonCode (.invalidPinblock .pinlenRange) = 3#3 ∧ reasonCode (.invalidPinblock .digitRange) = 4#3 ∧
  ∀ s t : State, step s = .next t →
    t.out.status ≤ 4#3 ∧ (t.out.status = 0#3 ↔ t.out.outValid = true) ∧ (t.out.status = 0#3 → t.out.reason = 0#3)

/-- R230: a fault is taken as a next state that differs from the state before it only in the output ports, which show
one of the eleven kind and reason pairs of R221, not valid, every data port 0. -/
def Obligations.FaultChangesOnlyThePorts : Prop :=
  ∀ (i : Instr) (s t : State), exec i s = .next t → t.out.outValid = false →
    (t.out.status, t.out.reason) ∈ faultCodes ∧
    t = { s with out := ⟨t.out.status, t.out.reason, false, Vector.replicate 16 0#8, 0#4, Vector.replicate 12 0#8⟩ }

/-- R222, R225: `InvalidPin` comes from ENCODE.ISO0 and ENCODE.ISO3 only and `InvalidPinblock` from DECODE only; a
first character that is no hexadecimal digit is reported as `UnsupportedFormat` instead. -/
def Obligations.FaultKindsByCommand : Prop :=
  ∀ (i : Instr) (s t : State), exec i s = .next t →
    (t.out.status = 1#3 → i = .encodeIso0 ∨ i = .encodeIso3) ∧
    (t.out.status = 2#3 → i = .encodeIso0 ∨ i = .encodeIso3 ∨ i = .decode) ∧
    (t.out.status = 4#3 → i = .decode) ∧
    (i = .decode → s.inp.pb.length = 16 → isHex Config.hexLowerOk (charAt s.inp.pb 0) = false →
      (t.out.status, t.out.reason) = (3#3, 2#3))

/-- R55, R35, the frame of every command: the input ports stay as the host drives them; ENCODE leaves no PIN on the
output ports and DECODE no block. -/
def Obligations.CommandsLeaveInputPorts : Prop :=
  ∀ (i : Instr) (s t : State), exec i s = .next t →
    t.inp = s.inp ∧
    (i ≠ .decode → t.out.outPinLen = 0#4 ∧ t.out.outPinCh = Vector.replicate 12 0#8) ∧
    (i = .decode → t.out.outHex = Vector.replicate 16 0#8)

/-- R240: every command ends in one step with an outcome; on the instance `step` runs no input record is without a
step. This rests on the model's choices of unbounded ports and of the default of `FILL_EXCLUDES_MAX`
(notes/assumptions/4.md, notes/assumptions/5.md). -/
def Obligations.EveryCommandEndsWithAnOutcome : Prop :=
  ∀ (i : Instr) (s : State), ∃ t, exec i s = .next t ∧
    (t.out.ShowsFault ∨ (i ≠ .decode ∧ t.out.ShowsBlock) ∨ (i = .decode ∧ t.out.ShowsPin))

/-- R11, R240, for every instance: a record with a string longer than its port has no step, and one within the
capacities never stops for that reason. That every port counts whichever command is presented, and that having no step
is the named stop `inputBeyondCapacity`, are the model's reading (notes/assumptions/6.md). -/
def Obligations.StringBeyondCapacityHasNoStep : Prop :=
  ∀ (p : Params) (f : Format) (s : State),
    ((∃ c, p.pinCap = some c ∧ c < s.inp.pin.length) ∨ (∃ c, p.pbCap = some c ∧ c < s.inp.pb.length) ∨
      (∃ c pan, p.panCap = some c ∧ s.inp.pan = some pan ∧ c < pan.length) →
      runEncode p f s = .fault .inputBeyondCapacity ∧ runDecode p s = .fault .inputBeyondCapacity) ∧
    ((∀ c, p.pinCap = some c → s.inp.pin.length ≤ c) → (∀ c, p.pbCap = some c → s.inp.pb.length ≤ c) →
      (∀ c pan, p.panCap = some c → s.inp.pan = some pan → pan.length ≤ c) →
      runEncode p f s ≠ .fault .inputBeyondCapacity ∧ ∃ t, runDecode p s = .next t)

/-- R20: the outcome of a command depends on its own input record and on nothing else; after any earlier commands it
is what it is right after reset. -/
def Obligations.OutcomeIgnoresEarlierCommands : Prop :=
  (∀ s s' : State, s.inp = s'.inp → outputsOf (step s) = outputsOf (step s')) ∧
  (∀ (rs : List Inputs) (r : Inputs) (s t : State), runCommands s (rs ++ [r]) = .next t →
    outputsOf (runCommand State.reset r) = some t.out)

/-- R232, R55: the same input record gives the same outcome again, a fault or a result. The second step runs without
anything presented in between: that it then runs the record the ports still hold is the model's choice
(notes/assumptions/7.md). -/
def Obligations.SameRecordGivesSameOutcome : Prop :=
  ∀ s t : State, step s = .next t → step t = .next t

/-- R39: after reset the output ports read status 0, reason 0, out_valid 0 and all data 0x00; no step ever returns
status 0 with out_valid 0. -/
def Obligations.IdlePortsOnlyAfterReset : Prop :=
  State.reset.out = ⟨0#3, 0#3, false, Vector.replicate 16 0#8, 0#4, Vector.replicate 12 0#8⟩ ∧
  ∀ s t : State, step s = .next t → ¬ (t.out.status = 0#3 ∧ t.out.outValid = false)

/-- R260, R262: reset changes the output ports only, and no later command can see it. -/
def Obligations.ResetIsInvisibleToCommands : Prop :=
  ∀ (s : State) (r : Inputs),
    s.applyReset.inp = s.inp ∧ s.applyReset.out = State.reset.out ∧
    step s.applyReset = step s ∧ runCommand s.applyReset r = runCommand s r

/-- R40: a command of one instance changes no other instance, runs as it would alone, and commutes with a command of
another instance. The instances of the bank all run on `Config.params`: that is the model's choice
(notes/assumptions/14.md), and of a bank of instances with different parameters this says nothing. -/
def Obligations.InstancesShareNothing : Prop :=
  (∀ (bank bank' : List State) (k : Nat), stepInstance bank k = .next bank' →
    bank'.length = bank.length ∧ (∀ j, j ≠ k → bank'[j]? = bank[j]?) ∧
    ∀ s, bank[k]? = some s → ∃ t, step s = .next t ∧ bank'[k]? = some t) ∧
  (∀ (bank b₁ b₂ : List State) (j k : Nat), j ≠ k → stepInstance bank j = .next b₁ →
    stepInstance b₁ k = .next b₂ → ∃ b₃, stepInstance bank k = .next b₃ ∧ stepInstance b₃ j = .next b₂)

/-- The invariant `State.PortsLegal` holds right after reset (R39). -/
def Obligations.PortsLegalAtReset : Prop := State.reset.PortsLegal

/-- From every state whose output ports are legal, a step leaves legal output ports: as after reset, or showing a fault
of R221 without data, a block ENCODE can produce, or a PIN of 4 to 12 digits. The invariant admits the reset ports on
both sides; that a step never leaves them is `IdlePortsOnlyAfterReset`. -/
def Obligations.StepKeepsPortsLegal : Prop :=
  ∀ s t : State, s.PortsLegal → step s = .next t → t.PortsLegal
end

