-- ==== Sys2Proof/Laws/Chars.lean ====
section
/-!
SUPPORT. The character primitives on their domains: what each returns and that renderers and readers are inverse
(spec/00_scope.md R16). Each is a check of all 16 nibbles or all 256 codes.
-/
namespace Sys2Proof.Machine

theorem isUpperHex_hexChar : ∀ v : Nibble, isUpperHex (hexChar v) = true := by decide

theorem isHex_hexChar (lowerOk : Bool) (v : Nibble) : isHex lowerOk (hexChar v) = true := by
  simp [isHex, isUpperHex_hexChar]

theorem hexVal_hexChar : ∀ v : Nibble, hexVal (hexChar v) = v := by decide

theorem isDigit_digChar : ∀ v : Nibble, v ≤ 9#4 → isDigit (digChar v) = true := by decide

theorem digVal_digChar : ∀ v : Nibble, v ≤ 9#4 → digVal (digChar v) = v := by decide

set_option maxRecDepth 4000 in
theorem digVal_le_nine : ∀ c : Byte, isDigit c = true → digVal c ≤ 9#4 := by decide

set_option maxRecDepth 4000 in
theorem digChar_digVal : ∀ c : Byte, isDigit c = true → digChar (digVal c) = c := by decide

set_option maxRecDepth 4000 in
theorem hexChar_digVal : ∀ c : Byte, isDigit c = true → hexChar (digVal c) = c := by decide

set_option maxRecDepth 4000 in
theorem hexVal_of_isDigit : ∀ c : Byte, isDigit c = true → hexVal c = digVal c := by decide

end Sys2Proof.Machine
end

