-- ==== Sys2Proof/Laws/State.lean ====
section
/-!
SUPPORT. What each update of the state does to each of its fields, and what each outcome puts on each output port.
-/
namespace Sys2Proof.Machine

variable (s : State) (r : Reply) (f : CodecFault) (i : Inputs) (w : BitVec 3)

@[simp] theorem State.answer_inp : (s.answer r).inp = s.inp := rfl
@[simp] theorem State.answer_out : (s.answer r).out = Outputs.ofReply r := rfl
@[simp] theorem State.takeFault_inp : (s.takeFault f).inp = s.inp := rfl
@[simp] theorem State.takeFault_out : (s.takeFault f).out = Outputs.ofReply (.fault f) := rfl
@[simp] theorem State.present_inp : (s.present i).inp = i := rfl
@[simp] theorem State.present_out : (s.present i).out = s.out := rfl
@[simp] theorem State.presentCmd_cmd : (s.presentCmd w).inp.cmd = w := rfl
@[simp] theorem State.presentCmd_pin : (s.presentCmd w).inp.pin = s.inp.pin := rfl
@[simp] theorem State.presentCmd_pan : (s.presentCmd w).inp.pan = s.inp.pan := rfl
@[simp] theorem State.presentCmd_rnd : (s.presentCmd w).inp.rnd = s.inp.rnd := rfl
@[simp] theorem State.presentCmd_pb : (s.presentCmd w).inp.pb = s.inp.pb := rfl
@[simp] theorem State.presentCmd_out : (s.presentCmd w).out = s.out := rfl
@[simp] theorem State.applyReset_inp : s.applyReset.inp = s.inp := rfl
@[simp] theorem State.applyReset_out : s.applyReset.out = Outputs.reset := rfl

/-- Answering twice shows the later outcome only: the ports hold no history (R20). -/
@[simp] theorem State.answer_answer (r₂ : Reply) : (s.answer r).answer r₂ = s.answer r₂ := rfl

/-- A reset before a command is presented is overwritten by its outcome (R262). -/
@[simp] theorem State.applyReset_answer : s.applyReset.answer r = s.answer r := rfl

theorem Outputs.ofReply_block (hex : Vector Byte 16) :
    Outputs.ofReply (.block hex) = Outputs.blockPorts hex := rfl

theorem Outputs.ofReply_pin (digits : Chars) :
    Outputs.ofReply (.pin digits) =
      Outputs.pinPorts (BitVec.ofNat 4 digits.length) (Vector.ofFn fun k => digits.getD k 0#8) := rfl

theorem Outputs.ofReply_fault :
    Outputs.ofReply (.fault f) = Outputs.faultPorts (kindCode f) (reasonCode f) := rfl

/-- Every fault's codes are among the eleven pairs of R221. -/
theorem codes_mem_faultCodes : (kindCode f, reasonCode f) ∈ faultCodes := by
  rcases f with (_ | _) | (_ | _ | _) | (_ | _) | (_ | _ | _ | _) <;> decide

end Sys2Proof.Machine
end

