-- ==== Sys2Proof/Laws/Units.lean ====
section
/-!
SUPPORT. One spec lemma per unit: what each lane, character or check of the units holds (spec/41_pin_field.md to
spec/44_hex_renderer.md). Later proofs cite these and never unfold a unit.
-/
namespace Sys2Proof.Machine

/-! ### Indexed reads -/

theorem nibbleAt_of_lt (F : Field) {i : Nat} (h : i < 16) : nibbleAt F i = F[i] := by
  simp [nibbleAt, h]

theorem charAt_of_lt (cs : Chars) {k : Nat} (h : k < cs.length) : charAt cs k = cs[k] := by
  simp [charAt, h]

theorem isDigit_charAt {cs : Chars} (h : cs.all isDigit = true) {k : Nat} (hk : k < cs.length) :
    isDigit (charAt cs k) = true := by
  rw [charAt_of_lt cs hk]
  exact List.all_eq_true.mp h _ (List.getElem_mem hk)

/-! ### The XOR combiner -/

@[simp] theorem xor16_getElem (A B : Field) (i : Nat) (h : i < 16) : (xor16 A B)[i] = A[i] ^^^ B[i] := by
  simp [xor16]

theorem nibbleAt_xor16 (A B : Field) (i : Nat) : nibbleAt (xor16 A B) i = nibbleAt A i ^^^ nibbleAt B i := by
  by_cases h : i < 16
  · simp [nibbleAt, h]
  · simp [nibbleAt, h]

/-- XOR with the same field twice gives the first field back: what DECODE rests on (R162). -/
theorem xor16_xor16_cancel (A B : Field) : xor16 (xor16 A B) B = A := by
  ext i h
  simp

/-! ### The PIN field -/

theorem pinField_marker (f : Format) (pin : Chars) (rnd : Vector Nibble 10) :
    nibbleAt (pinField f pin rnd) 0 = (fmtTable f).marker := by
  simp [nibbleAt, pinField]

theorem pinField_len (f : Format) (pin : Chars) (rnd : Vector Nibble 10) :
    nibbleAt (pinField f pin rnd) 1 = BitVec.ofNat 4 pin.length := by
  simp [nibbleAt, pinField]

theorem pinField_digit (f : Format) (pin : Chars) (rnd : Vector Nibble 10) {k : Nat} (hk : k < pin.length)
    (h12 : pin.length ≤ 12) : nibbleAt (pinField f pin rnd) (2 + k) = digVal (charAt pin k) := by
  have h : 2 + k < 16 := by omega
  have h1 : ¬ 2 + k = 1 := by omega
  simp [nibbleAt, pinField, h, h1, hk]

theorem pinField_fill (f : Format) (pin : Chars) (rnd : Vector Nibble 10) {j : Nat}
    (hj : j < 14 - pin.length) :
    nibbleAt (pinField f pin rnd) (2 + pin.length + j) = fillNibble f rnd j := by
  have h : 2 + pin.length + j < 16 := by omega
  have h1 : ¬ 2 + pin.length + j = 1 := by omega
  have h2 : 2 + pin.length + j - 2 - pin.length = j := by omega
  simp [nibbleAt, pinField, h, h1, h2]

theorem fillNibble_iso0 (rnd : Vector Nibble 10) (j : Nat) : fillNibble .iso0 rnd j = 15#4 := by
  simp [fillNibble, fillIsConstant, fmtTable]

theorem fillNibble_iso3 (rnd : Vector Nibble 10) (j : Nat) : fillNibble .iso3 rnd j = drawAt rnd j := by
  simp [fillNibble, fillIsConstant, fmtTable]

/-- The unit reads no draw but `rnd[0]` to `rnd[13 - len]`, and none under a constant fill (R125, R126). -/
theorem pinField_congr (f : Format) (pin : Chars) (rnd rnd' : Vector Nibble 10)
    (h : fillIsConstant f = true ∨ ∀ j, j < 14 - pin.length → drawAt rnd j = drawAt rnd' j) :
    pinField f pin rnd = pinField f pin rnd' := by
  apply Vector.ext
  intro i hi
  simp only [pinField, Vector.getElem_ofFn, fillNibble]
  split_ifs with h1 h2 h3 h4
  · trivial
  · trivial
  · trivial
  · trivial
  · rcases h with h | h
    · contradiction
    · rw [h (i - 2 - pin.length) (by omega)]

/-- The length nibble read back as a number (R80). -/
theorem pinField_len_toNat (f : Format) {pin : Chars} (rnd : Vector Nibble 10) (h12 : pin.length ≤ 12) :
    (nibbleAt (pinField f pin rnd) 1).toNat = pin.length := by
  rw [pinField_len, BitVec.toNat_ofNat]
  omega

/-! ### The PAN field -/

/-- Every lane of the PAN field, as R56 maps it. -/
theorem nibbleAt_panField (pan : Chars) {i : Nat} (h : i < 16) : nibbleAt (panField pan) i = panLane pan i := by
  simp [nibbleAt, panField, panLane, h]

@[simp] theorem panLane_of_lt_four (pan : Chars) {i : Nat} (h : i < 4) : panLane pan i = 0#4 := by
  simp [panLane, h]

/-- The unit is a function of the last 13 characters (R148). -/
theorem panField_of_panTail {pan pan' : Chars} (ht : panTail pan = panTail pan') : panField pan = panField pan' := by
  have e : ∀ (p : Chars) (k : Nat), charAt p (p.length - 13 + k) = charAt (panTail p) k := by
    intro p k
    simp [charAt, panTail]
  apply Vector.ext
  intro i hi
  simp only [panField, Vector.getElem_ofFn, e, ht]

theorem panCheck_ok_iff (pan : Option Chars) (p : Chars) :
    panCheck pan = .ok p ↔ pan = some p ∧ 13 ≤ p.length ∧ (panTail p).all isDigit = true := by
  cases pan with
  | none => simp [panCheck]
  | some q =>
    simp only [panCheck]
    split
    · constructor
      · intro h; cases h
      · rintro ⟨h, h13, -⟩; cases h; omega
    · split <;> constructor
      · intro h; cases h
      · rintro ⟨h, -, ht⟩; cases h; contradiction
      · intro h; cases h; exact ⟨rfl, by omega, of_not_not ‹_›⟩
      · rintro ⟨h, -, -⟩; cases h; rfl

/-- A PAN is well-formed in the sense of R77 exactly when the checks of R141 pass. -/
theorem panWf_some_iff (pan : Chars) : panWf (some pan) = true ↔ panCheck (some pan) = .ok pan := by
  rw [panCheck_ok_iff]
  simp [panWf, panTail]

theorem panWf_iff (pan : Chars) :
    panWf (some pan) = true ↔ 13 ≤ pan.length ∧ (panTail pan).all isDigit = true := by
  simp [panWf, panTail]

/-- The lanes 4 to 15 of a checked PAN are digits (R147). -/
theorem panLane_le_nine {pan : Chars} (h13 : 13 ≤ pan.length) (ht : (panTail pan).all isDigit = true) {i : Nat}
    (h : i < 16) : panLane pan i ≤ 9#4 := by
  unfold panLane
  split
  · decide
  · apply digVal_le_nine
    have hk : i - 4 < (panTail pan).length := by simp [panTail]; omega
    have hd := isDigit_charAt ht hk
    rwa [show charAt (panTail pan) (i - 4) = charAt pan (pan.length - 13 + (i - 4)) by
      simp [charAt, panTail]] at hd

/-! ### The renderers and the parser -/

@[simp] theorem hexRender_getElem (B : Field) (i : Nat) (h : i < 16) : (hexRender B)[i] = hexChar B[i] := by
  simp [hexRender]

/-- The parser gives back what the renderer rendered, under either value of `HEX_LOWER_OK` (R176). -/
theorem hexParse_hexRender (lowerOk : Bool) (B : Field) : hexParse lowerOk (hexRender B).toList = .ok B := by
  have hall : (hexRender B).toList.all (isHex lowerOk) = true := by
    rw [List.all_eq_true]
    intro c hc
    obtain ⟨i, hi, rfl⟩ := List.getElem_of_mem hc
    simp only [Vector.getElem_toList, hexRender_getElem]
    exact isHex_hexChar lowerOk _
  simp only [hexParse, hall, if_true]
  congr 1
  ext i h
  have hl : i < (hexRender B).toList.length := by simpa using h
  simp [charAt_of_lt _ hl, hexVal_hexChar]

theorem hexParse_of_all {lowerOk : Bool} {pb : Chars} (h : pb.all (isHex lowerOk) = true) :
    hexParse lowerOk pb = .ok (Vector.ofFn fun (i : Fin 16) => hexVal (charAt pb i.val)) := by
  rw [hexParse, if_pos h]

theorem blockWf_iff (lowerOk : Bool) (pb : Chars) :
    blockWf lowerOk pb = true ↔
      pb.length = 16 ∧ pb.all (isHex lowerOk) = true ∧ (charAt pb 0 = 0x30#8 ∨ charAt pb 0 = 0x33#8) := by
  simp [blockWf, and_assoc]

@[simp] theorem decRender_length (n : Nat) (F : Field) : (decRender n F).length = n := by simp [decRender]

theorem decRender_getElem (n : Nat) (F : Field) (k : Nat) (h : k < (decRender n F).length) :
    (decRender n F)[k] = digChar (nibbleAt F (2 + k)) := by
  simp [decRender]

end Sys2Proof.Machine
end

