-- ==== Sys2Proof/Laws/Exec.lean ====
section
/-!
SUPPORT. Everything a command can do, said once: on the instance `step` runs, a command answers one reply, a function
of its input record alone; and when the two procedures R100 and R190 end in which outcome.
-/
namespace Sys2Proof.Machine

/-! ### The outcome of a command as a function of the input record (R20) -/

/-- The outcome of an ENCODE command. -/
def encodeReply (f : Format) (r : Inputs) : Reply :=
  match encodeBlock f r.pin r.pan r.rnd with
  | .error e => .fault e
  | .ok hex => .block hex

/-- The outcome of a DECODE command. -/
def decodeReply (lowerOk : Bool) (r : Inputs) : Reply :=
  match decodeBlock lowerOk r.pb r.pan with
  | .error e => .fault e
  | .ok pin => .pin pin

theorem encodeReply_error {f : Format} {r : Inputs} {e : CodecFault}
    (h : encodeBlock f r.pin r.pan r.rnd = .error e) : encodeReply f r = .fault e := by rw [encodeReply, h]

theorem encodeReply_ok {f : Format} {r : Inputs} {hex : Vector Byte 16}
    (h : encodeBlock f r.pin r.pan r.rnd = .ok hex) : encodeReply f r = .block hex := by rw [encodeReply, h]

theorem decodeReply_error {lowerOk : Bool} {r : Inputs} {e : CodecFault}
    (h : decodeBlock lowerOk r.pb r.pan = .error e) : decodeReply lowerOk r = .fault e := by rw [decodeReply, h]

theorem decodeReply_ok {lowerOk : Bool} {r : Inputs} {pin : Chars}
    (h : decodeBlock lowerOk r.pb r.pan = .ok pin) : decodeReply lowerOk r = .pin pin := by rw [decodeReply, h]

/-- The outcome of each command. -/
def replyOf : Instr → Inputs → Reply
  | .encodeIso0, r => encodeReply .iso0 r
  | .encodeIso1, r => encodeReply .iso1 r
  | .encodeIso2, r => encodeReply .iso2 r
  | .encodeIso3, r => encodeReply .iso3 r
  | .decode, r => decodeReply Config.hexLowerOk r

/-- On unbounded ports every record is within the capacities. -/
theorem withinCaps_params (r : Inputs) : r.withinCaps Config.params = true := by
  cases h : r.pan <;> simp [Inputs.withinCaps, Config.params, fitsCap, h]

/-- Under the closed range every nibble is an admitted draw (R127). -/
theorem admittedDraw_closed : ∀ v : Nibble, admittedDraw false .iso3 v = true := by decide

theorem drawsAdmitted_closed (f : Format) (len : Nat) (rnd : Vector Nibble 10) :
    drawsAdmitted false f len rnd = true := by
  cases f <;> simp [drawsAdmitted, fillIsConstant, fmtTable, admittedDraw_closed]

/-- What an ENCODE command can do on any instance: when it ends in a next state, it answered its reply. -/
theorem runEncode_next {p : Params} {f : Format} {s t : State} (h : runEncode p f s = .next t) :
    t = s.answer (encodeReply f s.inp) := by
  unfold runEncode at h
  split at h
  · cases h
  · split at h <;> rename_i he
    · cases h
      rw [encodeReply_error he]
      rfl
    · split at h
      · cases h
        rw [encodeReply_ok he]
      · cases h

theorem runEncode_params (f : Format) (s : State) :
    runEncode Config.params f s = .next (s.answer (encodeReply f s.inp)) := by
  have hd := drawsAdmitted_closed f s.inp.pin.length s.inp.rnd
  unfold runEncode
  rw [withinCaps_params]
  cases h : encodeBlock f s.inp.pin s.inp.pan s.inp.rnd
  · simp [State.takeFault, encodeReply_error h]
  · simp [Config.params, hd, encodeReply_ok h]

/-- What a DECODE command can do on any instance: when it ends in a next state, it answered its reply. -/
theorem runDecode_next {p : Params} {s t : State} (h : runDecode p s = .next t) :
    t = s.answer (decodeReply p.hexLowerOk s.inp) := by
  unfold runDecode at h
  split at h
  · cases h
  · split at h <;> rename_i he <;> cases h
    · rw [decodeReply_error he]
      rfl
    · rw [decodeReply_ok he]

theorem runDecode_params (s : State) :
    runDecode Config.params s = .next (s.answer (decodeReply Config.hexLowerOk s.inp)) := by
  unfold runDecode
  rw [withinCaps_params]
  cases h : decodeBlock Config.hexLowerOk s.inp.pb s.inp.pan
  · simp [State.takeFault, Config.params, h, decodeReply_error h]
  · simp [Config.params, h, decodeReply_ok h]

/-- EVERYTHING A COMMAND CAN DO: it answers its reply and leaves the input ports alone. -/
theorem exec_eq_answer (i : Instr) (s : State) : exec i s = .next (s.answer (replyOf i s.inp)) := by
  cases i with
  | encodeIso0 => exact runEncode_params .iso0 s
  | encodeIso1 => exact runEncode_params .iso1 s
  | encodeIso2 => exact runEncode_params .iso2 s
  | encodeIso3 => exact runEncode_params .iso3 s
  | decode => exact runDecode_params s

/-- The output ports after a command: those of its reply. -/
theorem outputsOf_exec (i : Instr) (s : State) : outputsOf (exec i s) = some (Outputs.ofReply (replyOf i s.inp)) := by
  rw [exec_eq_answer]
  rfl

theorem step_eq_answer (s : State) :
    step s = .next (s.answer (replyOf (decodeCmd s.inp.cmd) s.inp)) := exec_eq_answer _ s

/-! ### The checks -/

theorem pinCheck_none_iff (pin : Chars) : pinCheck pin = none ↔ pinWf pin = true := by
  unfold pinCheck pinWf
  split
  · simp only [reduceCtorEq, Bool.and_eq_true, decide_eq_true_eq, false_iff]
    omega
  · split <;> rename_i h1 h2
    · simp only [reduceCtorEq, Bool.and_eq_true, false_iff]
      exact fun h => h2 h.2
    · simp only [Bool.and_eq_true, decide_eq_true_eq, true_iff]
      exact ⟨by omega, of_not_not h2⟩

theorem pinWf_iff (pin : Chars) :
    pinWf pin = true ↔ 4 ≤ pin.length ∧ pin.length ≤ 12 ∧ pin.all isDigit = true := by
  simp [pinWf, and_assoc]

theorem pinCheck_length {pin : Chars} (h : pin.length < 4 ∨ 12 < pin.length) : pinCheck pin = some .length := by
  simp [pinCheck, h]

theorem pinCheck_nonNumeric {pin : Chars} (h4 : 4 ≤ pin.length) (h12 : pin.length ≤ 12)
    (hd : pin.all isDigit = false) : pinCheck pin = some .nonNumeric := by
  have hl : ¬ (pin.length < 4 ∨ 12 < pin.length) := by omega
  unfold pinCheck
  rw [if_neg hl, hd]
  rfl

theorem panCheck_short {pan : Chars} (h : pan.length < 13) : panCheck (some pan) = .error .short := by
  simp [panCheck, h]

theorem panCheck_nonNumeric {pan : Chars} (h13 : 13 ≤ pan.length) (hd : (panTail pan).all isDigit = false) :
    panCheck (some pan) = .error .nonNumeric := by
  have hl : ¬ pan.length < 13 := by omega
  simp only [panCheck, if_neg hl, hd]
  rfl

/-! ### The ENCODE procedure (R100) -/

theorem encodeBlock_of_wf {f : Format} {pin pan : Chars} (rnd : Vector Nibble 10)
    (hf : (fmtTable f).implemented = true) (hpin : pinWf pin = true) (hpan : panWf (some pan) = true) :
    encodeBlock f pin (some pan) rnd = .ok (hexRender (xor16 (pinField f pin rnd) (panField pan))) := by
  rw [← pinCheck_none_iff] at hpin
  rw [panWf_some_iff] at hpan
  simp [encodeBlock, hf, hpin, hpan]

/-- The procedure ends in a block only for an implemented format, a well-formed PIN and a well-formed PAN. -/
theorem encodeBlock_ok {f : Format} {pin : Chars} {pan : Option Chars} {rnd : Vector Nibble 10}
    {hex : Vector Byte 16} (h : encodeBlock f pin pan rnd = .ok hex) :
    (fmtTable f).implemented = true ∧ pinWf pin = true ∧ ∃ p, pan = some p ∧ panWf (some p) = true ∧
      hex = hexRender (xor16 (pinField f pin rnd) (panField p)) := by
  unfold encodeBlock at h
  split at h
  · cases h
  · rename_i hf
    split at h
    · cases h
    · rename_i hpin
      split at h
      · cases h
      · rename_i p hp
        cases h
        obtain rfl := ((panCheck_ok_iff _ _).mp hp).1
        exact ⟨by simpa using hf, (pinCheck_none_iff _).mp hpin, p, rfl, (panWf_some_iff _).mpr hp, rfl⟩

/-- Character `i` of a block is the XOR of the two fields' lanes (R56, R76). -/
theorem block_getElem (f : Format) (pin pan : Chars) (rnd : Vector Nibble 10) {i : Nat} (h : i < 16) :
    (hexRender (xor16 (pinField f pin rnd) (panField pan)))[i] =
      hexChar (nibbleAt (pinField f pin rnd) i ^^^ panLane pan i) := by
  rw [← nibbleAt_panField pan h, nibbleAt_of_lt _ h, nibbleAt_of_lt _ h, hexRender_getElem, xor16_getElem]

/-- Lane `i` of the recovered PIN field (R198). -/
theorem recovered_lane (pb pan : Chars) {i : Nat} (h : i < 16) :
    nibbleAt (xor16 (Vector.ofFn fun (i : Fin 16) => hexVal (charAt pb i.val)) (panField pan)) i =
      hexVal (charAt pb i) ^^^ panLane pan i := by
  rw [nibbleAt_xor16, nibbleAt_panField _ h, nibbleAt_of_lt _ h, Vector.getElem_ofFn]

/-! ### The DECODE procedure (R190) -/

theorem readPin_of_wf {F : Field} (h4 : 4 ≤ (nibbleAt F 1).toNat) (h12 : (nibbleAt F 1).toNat ≤ 12)
    (hd : ∀ k < (nibbleAt F 1).toNat, nibbleAt F (2 + k) ≤ 9#4) :
    readPin F = .ok (decRender (nibbleAt F 1).toNat F) := by
  have hr : ¬ ((nibbleAt F 1).toNat < 4 ∨ 12 < (nibbleAt F 1).toNat) := by omega
  have ha : ((List.range (nibbleAt F 1).toNat).any fun k => decide (9#4 < nibbleAt F (2 + k))) = false := by
    rw [List.any_eq_false]
    intro k hk
    have := hd k (List.mem_range.mp hk)
    simpa [BitVec.not_lt] using this
  simp only [readPin, if_neg hr, ha]
  rfl

/-- The two reasons reading the recovered field can fail with (R199, R200). -/
theorem readPin_error {F : Field} {r : BlockReason} (h : readPin F = .error r) :
    r = .pinlenRange ∨ r = .digitRange := by
  simp only [readPin] at h
  split at h
  · cases h
    exact .inl rfl
  · split at h <;> cases h
    exact .inr rfl

variable {lowerOk : Bool} {pb : Chars}

/-- Step 3 fails, steps 1 and 2 having passed (R193). -/
theorem decodeBlock_badChar (pan : Option Chars) (hl : pb.length = 16)
    (hm : charAt pb 0 = 0x30#8 ∨ charAt pb 0 = 0x33#8) (hx : pb.all (isHex lowerOk) = false) :
    decodeBlock lowerOk pb pan = .error (.invalidPinblock .badChar) := by
  have h2 : ¬ (charAt pb 0 ≠ 0x30#8 ∧ charAt pb 0 ≠ 0x33#8) := by tauto
  unfold decodeBlock hexParse
  rw [if_neg (not_not.mpr hl), if_neg h2, hx]
  rfl

/-- Step 4 fails, the block being well-formed (R194). -/
theorem decodeBlock_panError {pan : Option Chars} {r : PanReason} (hb : blockWf lowerOk pb = true)
    (hp : panCheck pan = .error r) : decodeBlock lowerOk pb pan = .error (.invalidPan r) := by
  obtain ⟨hl, hx, hm⟩ := (blockWf_iff _ _).mp hb
  have h2 : ¬ (charAt pb 0 ≠ 0x30#8 ∧ charAt pb 0 ≠ 0x33#8) := by tauto
  unfold decodeBlock hexParse
  rw [if_neg (not_not.mpr hl), if_neg h2, if_pos hx, hp]

/-- Steps 5 to 9, the block and the PAN being well-formed: the PIN is read from the XOR of the two fields (R198). -/
theorem decodeBlock_of_wf {pan : Chars} (hb : blockWf lowerOk pb = true) (hp : panWf (some pan) = true) :
    decodeBlock lowerOk pb (some pan) =
      (readPin (xor16 (Vector.ofFn fun (i : Fin 16) => hexVal (charAt pb i.val)) (panField pan))).mapError
        .invalidPinblock := by
  obtain ⟨hl, hx, hm⟩ := (blockWf_iff _ _).mp hb
  have h2 : ¬ (charAt pb 0 ≠ 0x30#8 ∧ charAt pb 0 ≠ 0x33#8) := by tauto
  unfold decodeBlock hexParse
  rw [if_neg (not_not.mpr hl), if_neg h2, if_pos hx, (panWf_some_iff _).mp hp]
  dsimp only
  generalize readPin _ = r
  cases r <;> rfl

end Sys2Proof.Machine
end

