-- ==== Sys2Proof/Laws/PerInstr.lean ====
section
/-!
SUPPORT. Statements about every command as syntax, one lemma per constructor.
-/
namespace Sys2Proof.Laws.CommandWord

/-- A command is well-formed, and its word decodes to it (spec/30_encoding.md R71). -/
def Statement (i : Instr) : Prop := i.wf = true ∧ decodeCmd (encodeCmd i) = i

theorem encodeIso0 : Statement .encodeIso0 := by unfold Statement; decide
theorem encodeIso1 : Statement .encodeIso1 := by unfold Statement; decide
theorem encodeIso2 : Statement .encodeIso2 := by unfold Statement; decide
theorem encodeIso3 : Statement .encodeIso3 := by unfold Statement; decide
theorem decode : Statement .decode := by unfold Statement; decide

end Sys2Proof.Laws.CommandWord
end

