-- ==== Sys2Proof/Machine/Text.lean ====
section
/-!
DEFINITION. The textual syntax of a command and of its outcome (spec/30_encoding.md R86). Notation only: no command
reads or writes it.
-/
namespace Sys2Proof.Machine

/-- A string operand in double quotes, each code shown as its character (R86; notes/assumptions/13.md). -/
def quotedText (s : Chars) : List Char :=
  [Char.ofNat 0x22] ++ s.map (fun c => Char.ofNat c.toNat) ++ [Char.ofNat 0x22]

/-- The PAN operand; an absent PAN is written `absent`. -/
def panText : Option Chars → List Char
  | none => "absent".toList
  | some pan => quotedText pan

/-- The draws as a list of nibbles in hexadecimal. -/
def drawsText (rnd : Vector Nibble 10) : List Char :=
  "[".toList ++ List.intercalate ",".toList (rnd.toList.map fun v => [Char.ofNat (hexChar v).toNat]) ++ "]".toList

/-- The operands of a command, in the order of R86. -/
def operandsText (r : Inputs) : Instr → List Char
  | .encodeIso0 => quotedText r.pin ++ ", ".toList ++ panText r.pan
  | .encodeIso1 => quotedText r.pin ++ ", ".toList ++ panText r.pan
  | .encodeIso2 => quotedText r.pin ++ ", ".toList ++ panText r.pan
  | .encodeIso3 => quotedText r.pin ++ ", ".toList ++ panText r.pan ++ ", ".toList ++ drawsText r.rnd
  | .decode => quotedText r.pb ++ ", ".toList ++ panText r.pan

/-- An input record as one line of text. -/
def commandText (r : Inputs) : List Char :=
  (decodeCmd r.cmd).mnemonic.toList ++ " ".toList ++ operandsText r (decodeCmd r.cmd)

/-- A fault by its kind and reason names (R84, R85). -/
def faultText : CodecFault → String
  | .invalidPin .length => "InvalidPin(LENGTH)"
  | .invalidPin .nonNumeric => "InvalidPin(NON_NUMERIC)"
  | .invalidPan .absent => "InvalidPan(ABSENT)"
  | .invalidPan .short => "InvalidPan(SHORT)"
  | .invalidPan .nonNumeric => "InvalidPan(NON_NUMERIC)"
  | .unsupportedFormat .encFormat => "UnsupportedFormat(ENC_FORMAT)"
  | .unsupportedFormat .decMarker => "UnsupportedFormat(DEC_MARKER)"
  | .invalidPinblock .length => "InvalidPinblock(LENGTH)"
  | .invalidPinblock .badChar => "InvalidPinblock(BAD_CHAR)"
  | .invalidPinblock .pinlenRange => "InvalidPinblock(PINLEN_RANGE)"
  | .invalidPinblock .digitRange => "InvalidPinblock(DIGIT_RANGE)"

/-- An outcome as it is written after `=>`. -/
def replyText : Reply → List Char
  | .block hex => "Ok ".toList ++ quotedText hex.toList
  | .pin digits => "Ok ".toList ++ quotedText digits
  | .fault f => "Fault ".toList ++ (faultText f).toList

end Sys2Proof.Machine
end

