-- ==== Sys2Proof/Tests/Slice0.lean ====
section
/-!
SUPPORT. Tests whose expected results come from spec/95_test_vectors.md (its ids stand in the comments) and the witnesses of
the obligations' hypotheses.
-/
namespace Sys2Proof.Tests

open Sys2Proof Sys2Proof.Machine

/-- The codes of a text. -/
def codes (s : String) : Chars := s.toList.map fun c => BitVec.ofNat 8 c.toNat

/-- The PANs P1 and P2 of spec/95_test_vectors.md, and the block of V1. -/
def p1 : Chars := codes "43219876543210987"
def p2 : Chars := codes "5432101234567891"
def v1 : Chars := codes "0412AC89ABCDEF67"

/-- An instance with the record of an ENCODE command, and with the record of a DECODE command. -/
def enc (pin : String) (pan : Option Chars) (rnd : Vector Nibble 10 := Vector.replicate 10 0#4) : State :=
  State.reset.present { cmd := 0#3, pin := codes pin, pan := pan, rnd := rnd, pb := [] }
def dec (pb : Chars) (pan : Option Chars) : State :=
  State.reset.present { cmd := 4#3, pin := [], pan := pan, rnd := Vector.replicate 10 0#4, pb := pb }

/-- The block, the PIN and the fault codes a command leaves on the output ports. -/
def hexOf (i : Instr) (s : State) : Option Chars := (outputsOf (exec i s)).map Outputs.hexChars
def pinOf (i : Instr) (s : State) : Option Chars := (outputsOf (exec i s)).map Outputs.pinChars
def codesOf (i : Instr) (s : State) : Option (BitVec 3 × BitVec 3) :=
  (outputsOf (exec i s)).map fun o => (o.status, o.reason)

def draws0to9 : Vector Nibble 10 := #v[0, 1, 2, 3, 4, 5, 6, 7, 8, 9]

/-! ### Well-formedness: an ill-formed operand for each check (R77) -/

theorem test_instr_wf : (List.map Instr.wf [.encodeIso0, .encodeIso1, .encodeIso2, .encodeIso3, .decode]).all id = true := by
  decide

theorem smoke_pin_too_short : pinWf (codes "123") = false := by decide
theorem smoke_pin_too_long : pinWf (codes "1234567890123") = false := by decide
theorem smoke_pin_non_digit : pinWf (codes "12a4") = false := by decide
theorem smoke_pan_absent : panWf none = false := by decide
theorem smoke_pan_short : panWf (some (codes "123456789012")) = false := by decide
theorem smoke_pan_non_digit : panWf (some (codes "123456789012X")) = false := by decide
theorem smoke_block_length : blockWf true (codes "0412AC89ABCDEF6") = false := by decide
theorem smoke_block_bad_char : blockWf true (codes "0412AC89ABCDEG67") = false := by decide
theorem smoke_block_marker : blockWf true (codes "1412AC89ABCDEF67") = false := by decide

/-! ### The command words (2.1) -/

theorem test_word_000 : decodeTableWord 8 0 = some .encodeIso0 := by decide
theorem test_word_001 : decodeTableWord 8 1 = some .encodeIso1 := by decide
theorem test_word_010 : decodeTableWord 8 2 = some .encodeIso2 := by decide
theorem test_word_011 : decodeTableWord 8 3 = some .encodeIso3 := by decide
theorem test_word_1xx : (List.map (decodeTableWord 8) [4, 5, 6, 7]).all (· == some .decode) = true := by decide
theorem test_wider_than_a_word : decodeNumber 8 = .error .notThreeBits := by rfl

/-! ### One step per command -/

/-- V1, run by `step` through the command word. -/
theorem test_iso0_v1 : (outputsOf (step ((enc "1234" (some p1)).withFetchWord 8 0))).map Outputs.hexChars = some v1 := by
  decide

/-- E0-17 (12 digits, two fill nibbles) and E0-29 (characters before the tail are never read). -/
theorem test_iso0_long_pin_and_pan_prefix :
    hexOf .encodeIso0 (enc "123456789012" (some p1)) = some (codes "0C12AC202CA20267") ∧
    hexOf .encodeIso0 (enc "1234" (some (codes "ABCD4000001234567899"))) = some (codes "041234FEDCBA9876") := by
  decide

/-- EF12 and EF14: the format is rejected before the PIN and the PAN are looked at. -/
theorem test_iso1_faults :
    codesOf .encodeIso1 (enc "1234" (some p1)) = some (3, 1) ∧ codesOf .encodeIso1 (enc "12" none) = some (3, 1) := by
  decide

/-- EF13. -/
theorem test_iso2_faults : codesOf .encodeIso2 (enc "1234" (some p1)) = some (3, 1) := by decide

/-- E3-1 and E3-5 (only two draws read). -/
theorem test_iso3_draws :
    hexOf .encodeIso3 (enc "1234" (some p1) draws0to9) = some (codes "3412AC7777777711") ∧
    hexOf .encodeIso3 (enc "987654321098" (some p2) #v[5, 0xA, 0, 0, 0, 0, 0, 0, 0, 0]) =
      some (codes "3C9857551155FFD3") := by
  decide

/-- EF8: the PAN is required. -/
theorem test_iso3_absent_pan : codesOf .encodeIso3 (enc "1234" none) = some (2, 1) := by decide

/-- K1, K10 (the fill is not checked) and K12 (a wrong PAN, a wrong PIN as `Ok`). -/
theorem test_decode_pins :
    pinOf .decode (dec v1 (some p1)) = some (codes "1234") ∧
    pinOf .decode (dec (codes "0412AC8900000000") (some p1)) = some (codes "1234") ∧
    pinOf .decode (dec v1 (some (codes "43218876543210987"))) = some (codes "1224") := by
  decide

/-- KF4, KF9, KF11, KF15, KF17, KF20: the priorities of R227 and the two recovered ranges. -/
theorem test_decode_faults :
    codesOf .decode (dec (codes "5412AC89ABCDEF6") (some p1)) = some (4, 1) ∧
    codesOf .decode (dec (codes "9412AC89ABCDEG67") none) = some (3, 2) ∧
    codesOf .decode (dec (codes "0412AC89ABCDEG67") none) = some (4, 2) ∧
    codesOf .decode (dec (codes "0F12AC89ABCDEF67") none) = some (2, 1) ∧
    codesOf .decode (dec (codes "0D12AC89ABCDEF67") (some p1)) = some (4, 3) ∧
    codesOf .decode (dec v1 (some p2)) = some (4, 4) := by
  decide

/-! ### The units -/

/-- F9 and F16. -/
theorem test_pin_field :
    packField (pinField .iso0 (codes "123456789012") draws0to9) = 0x0C123456789012FF#64 ∧
    packField (pinField .iso3 (codes "987654321098") #v[5, 0xA, 0, 0, 0, 0, 0, 0, 0, 0]) = 0x3C9876543210985A#64 := by
  decide

/-- A3 (least length) and A5 (non-digits before the tail). -/
theorem test_pan_field :
    packField (panField (codes "1234567890123")) = 0x0000123456789012#64 ∧
    packField (panField (codes "ABCD4000001234567899")) = 0x0000000123456789#64 := by
  decide

/-- X7. -/
theorem test_xor16 :
    packField (xor16 (Vector.replicate 16 15#4) (Vector.ofFn fun (i : Fin 16) => if i.val < 4 then 0#4 else 9#4)) =
      0xFFFF666666666666#64 := by
  decide

/-- K11: lower-case letters under both values of `HEX_LOWER_OK`. -/
theorem test_lower_case_block :
    decodeBlock true (codes "0412ac89abcdef67") (some p1) = .ok (codes "1234") ∧
    decodeBlock false (codes "0412ac89abcdef67") (some p1) = .error (.invalidPinblock .badChar) := ⟨by rfl, by rfl⟩

/-- R127: a draw of 15 under both values of `FILL_EXCLUDES_MAX` (E3-3 and U11). -/
theorem test_draw_of_fifteen :
    drawsAdmitted false .iso3 4 (Vector.replicate 10 15#4) = true ∧
    drawsAdmitted true .iso3 4 (Vector.replicate 10 15#4) = false := by
  decide

/-- R86: the text of V1. -/
theorem test_text_of_v1 :
    commandText (enc "1234" (some p1)).inp =
      "ENCODE.ISO0 ".toList ++ quotedText (codes "1234") ++ ", ".toList ++ quotedText p1 ∧
    replyText (.fault (.invalidPin .length)) = "Fault InvalidPin(LENGTH)".toList := by
  decide

/-! ### Witnesses: for each obligation with hypotheses, values that meet them together, one for each clause -/

theorem witness_DecodeIgnoresFormatBits : (0b110#3 : BitVec 3).getLsbD 2 = true := by decide

theorem witness_StepRunsPresentedCommand : decodeNumber State.reset.inp.cmd.toNat = .ok .encodeIso0 := by rfl

theorem witness_OutcomeDependsOnOperandsRead :
    (enc "123456789012" (some p1) draws0to9).inp.pin = (enc "123456789012" (some p1)).inp.pin ∧
    (enc "123456789012" (some p1) draws0to9).inp.pan = (enc "123456789012" (some p1)).inp.pan ∧
    (∀ j, j < 14 - (enc "123456789012" (some p1) #v[0, 0, 7, 7, 7, 7, 7, 7, 7, 7]).inp.pin.length →
      drawAt (enc "123456789012" (some p1) #v[0, 0, 7, 7, 7, 7, 7, 7, 7, 7]).inp.rnd j =
        drawAt (enc "123456789012" (some p1)).inp.rnd j) ∧
    (dec v1 (some p1)).inp.pb = ((dec v1 (some p1)).presentCmd 5#3).inp.pb ∧
    (dec v1 (some p1)).inp.pan = ((dec v1 (some p1)).presentCmd 5#3).inp.pan := by
  decide

/-- Also the witness of `EncodeIso3Result`, whose hypotheses are the same: the least and the greatest PIN length and
the least PAN length. -/
theorem witness_EncodeIso0Result :
    (pinWf (enc "1234" (some p1)).inp.pin = true ∧ (enc "1234" (some p1)).inp.pan = some p1 ∧ panWf (some p1) = true) ∧
    (pinWf (enc "123456789012" (some (codes "1234567890123"))).inp.pin = true ∧
      panWf (some (codes "1234567890123")) = true) := by
  decide

theorem witness_PinLengthOutsideFourToTwelveFaults :
    (enc "123" none).inp.pin.length < 4 ∧ 12 < (enc "1234567890123" none).inp.pin.length ∧
    4 ≤ (enc "1234" none).inp.pin.length ∧ (enc "123456789012" none).inp.pin.length ≤ 12 := by
  decide

theorem witness_NonDigitInPinFaults :
    (4 ≤ (enc "12/4" none).inp.pin.length ∧ (enc "12/4" none).inp.pin.length ≤ 12 ∧
      ∃ c ∈ (enc "12/4" none).inp.pin, c.toNat < 0x30 ∨ 0x39 < c.toNat) ∧
    (∃ c ∈ (enc "12:4" none).inp.pin, c.toNat < 0x30 ∨ 0x39 < c.toNat) ∧
    (∀ c ∈ (enc "0009" none).inp.pin, 0x30 ≤ c.toNat ∧ c.toNat ≤ 0x39) := by
  decide

theorem witness_EncodeRequiresUsablePan :
    pinWf (enc "1234" none).inp.pin = true ∧ (enc "1234" none).inp.pan = none ∧
    (codes "123456789012").length < 13 ∧
    (13 ≤ (codes "123456789012X").length ∧ isDigit (charAt (codes "123456789012X") 12) = false ∧
      (codes "123456789012X").length - 13 ≤ 12 ∧ 12 < (codes "123456789012X").length) ∧
    (13 ≤ (codes "X234567890123").length ∧ isDigit (charAt (codes "X234567890123") 0) = false ∧
      (codes "X234567890123").length - 13 ≤ 0) := by
  decide

/-- A next state for each clause of R226, and for the clause in which no check fails. -/
theorem witness_EncodeReportsFirstFailingCheck :
    codesOf .encodeIso1 (enc "12" none) = some (3, 1) ∧ codesOf .encodeIso0 (enc "12a" none) = some (1, 1) ∧
    codesOf .encodeIso0 (enc "12a4" none) = some (1, 2) ∧ codesOf .encodeIso0 (enc "1234" none) = some (2, 1) ∧
    codesOf .encodeIso0 (enc "1234" (some (codes "12345X"))) = some (2, 2) ∧
    codesOf .encodeIso3 (enc "1234" (some (codes "123456789012X"))) = some (2, 3) ∧
    codesOf .encodeIso3 (enc "1234" (some p1)) = some (0, 0) := by
  decide

/-- A next state with a valid block: for `EncodedBlockIsUppercaseHex`, `BlockShowsMarkerLengthAndTwoDigits`, and, with
the PANs named, `DecodeInvertsEncodeUnderSameTail` and both clauses of `DecodeWithAnotherPan`. -/
theorem witness_valid_block :
    (∃ t, exec .encodeIso0 (enc "1234" (some p1)) = .next t ∧ t.out.outValid = true ∧ t.out.hexChars = v1) ∧
    (∃ t, exec .encodeIso3 (enc "1234" (some p1)) = .next t ∧ t.out.outValid = true) ∧
    (codes "99" ++ p1).drop ((codes "99" ++ p1).length - 13) = p1.drop (p1.length - 13) ∧
    panWf (some p2) = true ∧
    9#4 < digVal (charAt (codes "1234") 3) ^^^ (panLane p1 5 ^^^ panLane p2 5) ∧
    panWf (some (codes "43218876543210987")) = true ∧
    (∀ k, k < 4 → digVal (charAt (codes "1234") k) ^^^
      (panLane p1 (2 + k) ^^^ panLane (codes "43218876543210987") (2 + k)) ≤ 9#4) :=
  ⟨⟨_, rfl, by decide⟩, ⟨_, rfl, by decide⟩, by decide⟩

theorem witness_Iso3WithDrawsOfFifteenMatchesIso0 :
    pinWf (enc "1234" (some p1) (Vector.replicate 10 15#4)).inp.pin = true ∧
    panWf (enc "1234" (some p1) (Vector.replicate 10 15#4)).inp.pan = true ∧
    ∀ j, j < 14 - (enc "1234" (some p1) (Vector.replicate 10 15#4)).inp.pin.length →
      drawAt (enc "1234" (some p1) (Vector.replicate 10 15#4)).inp.rnd j = 15#4 := by
  decide

/-- An instance with `FILL_EXCLUDES_MAX` and ports of the least capacities R11 allows. -/
def smallest : Params :=
  { hexLowerOk := false, fillExcludesMax := true, pinCap := some 13, panCap := some 19, pbCap := some 17 }

theorem witness_DrawOutsideAdmittedSetHasNoStep :
    ((enc "1234" (some p1) draws0to9).inp.withinCaps smallest = true ∧
      pinWf (enc "1234" (some p1) draws0to9).inp.pin = true ∧ panWf (enc "1234" (some p1) draws0to9).inp.pan = true ∧
      ∀ j, j < 14 - (enc "1234" (some p1) draws0to9).inp.pin.length →
        drawAt (enc "1234" (some p1) draws0to9).inp.rnd j ≤ 14#4) ∧
    smallest.fillExcludesMax = true ∧
    (∃ j, j < 14 - 4 ∧ drawAt (#v[0, 0, 0, 0, 0, 0, 0, 0, 0, 15] : Vector Nibble 10) j = 15#4) := by
  decide

theorem witness_StringBeyondCapacityHasNoStep :
    smallest.pinCap = some 13 ∧ 13 < (enc "12345678901234" none).inp.pin.length ∧
    smallest.pbCap = some 17 ∧ 17 < (dec (codes "0412AC89ABCDEF6700") none).inp.pb.length ∧
    smallest.panCap = some 19 ∧ 19 < (codes "ABCD4000001234567899").length ∧
    (enc "1234567890123" none).inp.pin.length ≤ 13 := by
  decide

theorem witness_smallest_is_legal : smallest.Legal :=
  ⟨fun c h => by cases h; decide, fun c h => by cases h; decide, fun c h => by cases h; decide⟩

/-- For `PinFieldLanes`, `PinReadBackFromField` and `PinFieldRanges`, both values of `FILL_EXCLUDES_MAX`. -/
theorem witness_pin_field :
    pinWf (codes "0000") = true ∧ pinWf (codes "999999999999") = true ∧
    drawsAdmitted true .iso3 4 draws0to9 = true ∧ drawsAdmitted false .iso3 12 (Vector.replicate 10 15#4) = true ∧
    drawsAdmitted true .iso0 4 (Vector.replicate 10 15#4) = true := by
  decide

theorem witness_pan_field :
    panWf (some (codes "1234567890123")) = true ∧ 12 ≤ (codes "123456789012").length := by
  decide

/-- A5 and A6: two PANs with the same last 13 characters. -/
theorem witness_PansWithSameTailAreInterchangeable :
    13 ≤ (codes "ABCD4000001234567899").length ∧ 13 ≤ (codes "4000001234567899").length ∧
    (codes "ABCD4000001234567899").drop ((codes "ABCD4000001234567899").length - 13) =
      (codes "4000001234567899").drop ((codes "4000001234567899").length - 13) := by
  decide

theorem witness_HexParserAcceptsAndInverts :
    isHex true 0x66#8 = true ∧ isHex false 0x46#8 = true ∧
    (codes "0412ac89abcdef67").length = 16 ∧ (codes "0412ac89abcdef67").all (isHex true) = true := by
  decide

theorem witness_DecimalRendererCharacters :
    ∀ k, k < 12 → nibbleAt (pinField .iso0 (codes "987654321098") draws0to9) (2 + k) ≤ 9#4 := by
  decide

/-- The least and the greatest recovered length. -/
theorem witness_DecodeResult :
    (blockWf Config.hexLowerOk (dec v1 (some p1)).inp.pb = true ∧ panWf (some p1) = true ∧
      4 = (hexVal (charAt v1 1)).toNat ∧ ∀ k, k < 4 → hexVal (charAt v1 (2 + k)) ^^^ panLane p1 (2 + k) ≤ 9#4) ∧
    (blockWf Config.hexLowerOk (codes "0C12AC202CA20267") = true ∧
      12 = (hexVal (charAt (codes "0C12AC202CA20267") 1)).toNat ∧
      ∀ k, k < 12 → hexVal (charAt (codes "0C12AC202CA20267") (2 + k)) ^^^ panLane p1 (2 + k) ≤ 9#4) := by
  decide

/-- For `BlockLengthOtherThanSixteenFaults` and `RawMarkerOtherThanZeroOrThreeFaults`, each clause. -/
theorem witness_block_checks :
    (dec (codes "0412AC89ABCDEF6") none).inp.pb.length ≠ 16 ∧ (dec (codes "0412AC89ABCDEF670") none).inp.pb.length ≠ 16 ∧
    (codes "G412AC89ABCDEF67").length = 16 ∧ charAt (codes "G412AC89ABCDEF67") 0 ≠ 0x30#8 ∧
    charAt (codes "G412AC89ABCDEF67") 0 ≠ 0x33#8 ∧
    charAt v1 0 = 0x30#8 ∧ charAt (codes "3412AC7777777711") 0 = 0x33#8 := by
  decide

/-- The codes next to the ranges of R176 (`/`, `:`, `@`, `G`, a back-quote, `g`), as the last character of the block: none
is a hexadecimal digit under either value of `HEX_LOWER_OK`. And a block for the clause that has no such character. -/
theorem witness_NonHexBlockCharacterFaults :
    (∀ c ∈ [0x2F#8, 0x3A#8, 0x40#8, 0x47#8, 0x60#8, 0x67#8],
      isHex true c = false ∧ isHex false c = false ∧ isHex Config.hexLowerOk c = false ∧
      (dec (codes "0412AC89ABCDEF6" ++ [c]) none).inp.pb.length = 16 ∧
      charAt (dec (codes "0412AC89ABCDEF6" ++ [c]) none).inp.pb 0 = 0x30#8 ∧
      c ∈ (dec (codes "0412AC89ABCDEF6" ++ [c]) none).inp.pb) ∧
    (v1.length = 16 ∧ charAt v1 0 = 0x30#8 ∧ ∀ c ∈ v1, isHex Config.hexLowerOk c = true) := by
  decide

theorem witness_DecodeRequiresUsablePan :
    blockWf Config.hexLowerOk (dec v1 none).inp.pb = true ∧ (dec v1 none).inp.pan = none ∧
    (codes "123456789012").length < 13 ∧ isDigit (charAt (codes "123456789012X") 12) = false := by
  decide

/-- Recovered lengths 3 and 13 (KF16, KF17) beside 4 and 12. -/
theorem witness_RecoveredLengthOutsideFourToTwelveFaults :
    panWf (dec v1 (some p1)).inp.pan = true ∧
    (blockWf Config.hexLowerOk (codes "0312AC89ABCDEF67") = true ∧ (hexVal (charAt (codes "0312AC89ABCDEF67") 1)).toNat < 4) ∧
    (blockWf Config.hexLowerOk (codes "0D12AC89ABCDEF67") = true ∧ 12 < (hexVal (charAt (codes "0D12AC89ABCDEF67") 1)).toNat) ∧
    (4 ≤ (hexVal (charAt v1 1)).toNat ∧ (hexVal (charAt (codes "0C12AC202CA20267") 1)).toNat ≤ 12) := by
  decide

/-- KF20: the fourth digit recovered is 13. -/
theorem witness_RecoveredDigitAboveNineFaults :
    blockWf Config.hexLowerOk (dec v1 (some p2)).inp.pb = true ∧ panWf (some p2) = true ∧
    4 = (hexVal (charAt v1 1)).toNat ∧ 9#4 < hexVal (charAt v1 (2 + 3)) ^^^ panLane p2 (2 + 3) := by
  decide

/-- A next state for the clauses of R227 that `test_decode_faults` does not reach. -/
theorem witness_DecodeReportsFirstFailingCheck :
    codesOf .decode (dec v1 (some (codes "123456789012"))) = some (2, 2) ∧
    codesOf .decode (dec v1 (some (codes "123456789012X"))) = some (2, 3) ∧
    codesOf .decode (dec v1 (some p1)) = some (0, 0) := by
  decide

theorem witness_DecodeNeverReadsFill :
    (codes "0412AC8900000000").length = 16 ∧ (codes "0412AC8900000000").all (isHex Config.hexLowerOk) = true ∧
    v1.length = 16 ∧ v1.all (isHex Config.hexLowerOk) = true ∧
    ∀ i, i < 2 + (hexVal (charAt v1 1)).toNat → charAt v1 i = charAt (codes "0412AC8900000000") i := by
  decide

theorem witness_EncodeThenDecodeReturnsPin :
    pinWf (enc "1234" (some p1)).inp.pin = true ∧ panWf (enc "1234" (some p1)).inp.pan = true ∧
    ((enc "1234" (some p1)).present { (enc "1234" (some p1)).inp with pb := v1 }).inp.pan =
      (enc "1234" (some p1)).inp.pan := by
  decide

theorem witness_OutputPortsOfEachOutcome : (codes "123456789012").length ≤ 12 := by decide

/-- A step that ends in a fault and one that ends in a result, each a next state: for `KindAndReasonCodes`,
`FaultChangesOnlyThePorts`, `FaultKindsByCommand`, `CommandsLeaveInputPorts`, `SameRecordGivesSameOutcome`,
`IdlePortsOnlyAfterReset` and, the reset state having legal ports, `StepKeepsPortsLegal`. -/
theorem witness_next_states :
    (∃ t, step State.reset = .next t ∧ t.out.outValid = false ∧ t.out.status = 1#3) ∧
    (∃ t, exec .decode (dec v1 none) = .next t ∧ t.out.outValid = false ∧ t.out.status = 2#3) ∧
    (∃ t, exec .decode (dec v1 (some p2)) = .next t ∧ t.out.status = 4#3) ∧
    (∃ t, step (enc "1234" (some p1)) = .next t ∧ t.out.outValid = true ∧ t.out.ShowsBlock) ∧
    (∃ t, step (dec v1 (some p1)) = .next t ∧ t.out.outValid = true ∧ t.out.ShowsPin) ∧
    isHex Config.hexLowerOk (charAt (codes "G412AC89ABCDEF67") 0) = false ∧
    State.reset.PortsLegal :=
  ⟨⟨_, rfl, by decide⟩, ⟨_, rfl, by decide⟩, ⟨_, rfl, by decide⟩, ⟨_, rfl, by decide⟩, ⟨_, rfl, by decide⟩,
    by decide, by decide⟩

/-- Two commands one after another that end in a next state, on records that differ. -/
theorem witness_OutcomeIgnoresEarlierCommands :
    ∃ t, runCommands State.reset ([(enc "12" none).inp] ++ [(dec v1 (some p1)).inp]) = .next t ∧
      t.out.pinChars = codes "1234" := ⟨_, rfl, by decide⟩

theorem witness_InstancesShareNothing :
    ∃ b₁ b₂, stepInstance [enc "1234" (some p1), dec v1 (some p1)] 0 = .next b₁ ∧ stepInstance b₁ 1 = .next b₂ ∧
      b₂.map (fun s => s.out.outValid) = [true, true] := ⟨_, _, rfl, rfl, by decide⟩

end Sys2Proof.Tests
end

section
/-!
SUPPORT. The state and its ports (spec/10_state.md): the table of R27, what a step and a list of commands leave on the
output ports (R20), and the idle combination of R39.
-/
namespace Sys2Proof.Machine

/-! ### The format descriptor table (R27) -/

/-- The marker of a format is its ordinal. -/
theorem fmtTable_marker (f : Format) : (fmtTable f).marker = (formatNumber f).setWidth 4 := by
  cases f <;> rfl

/-- ISO-3 is the one format whose fill is drawn (R78). -/
theorem fillIsConstant_iff (f : Format) : fillIsConstant f = true ↔ f ≠ .iso3 := by
  cases f <;> decide

/-- Settles O16: the entries are those of the table, and the two columns' laws hold format by format. -/
theorem formatTableContents : Obligations.FormatTableContents :=
  ⟨rfl, rfl, rfl, rfl, fmtTable_marker, fillIsConstant_iff⟩

/-! ### The outcome of a step and of a list of commands (R20) -/

theorem step_next {s t : State} (h : step s = .next t) : t = s.answer (replyOf (decodeCmd s.inp.cmd) s.inp) := by
  rw [step_eq_answer] at h
  cases h
  rfl

/-- The output ports after a step are a function of the input record. -/
theorem outputsOf_step (s : State) :
    outputsOf (step s) = some (Outputs.ofReply (replyOf (decodeCmd s.inp.cmd) s.inp)) :=
  outputsOf_exec _ s

/-- The output ports after a presented command, in which the state before it does not occur. -/
theorem outputsOf_runCommand (s : State) (r : Inputs) :
    outputsOf (runCommand s r) = some (Outputs.ofReply (replyOf (decodeCmd r.cmd) r)) :=
  outputsOf_step (s.present r)

/-- The first of several commands always ends in a next state, from which the others run (R266). -/
theorem runCommands_cons (s : State) (r : Inputs) (rs : List Inputs) :
    runCommands s (r :: rs) = runCommands ((s.present r).answer (replyOf (decodeCmd r.cmd) r)) rs := by
  rw [runCommands, runCommand, step_eq_answer]
  rfl

/-- Of several commands the last alone decides the output ports. -/
theorem outputsOf_runCommands_concat (rs : List Inputs) (r : Inputs) (s : State) :
    outputsOf (runCommands s (rs ++ [r])) = some (Outputs.ofReply (replyOf (decodeCmd r.cmd) r)) := by
  induction rs generalizing s with
  | nil => rw [List.nil_append, runCommands_cons]; rfl
  | cons r₀ rs ih => rw [List.cons_append, runCommands_cons]; exact ih _

/-- Settles O47: a step's output ports are a function of its record, and earlier commands leave no trace in them. -/
theorem outcomeIgnoresEarlierCommands : Obligations.OutcomeIgnoresEarlierCommands := by
  constructor
  · intro s s' hinp
    rw [outputsOf_step, outputsOf_step, hinp]
  · intro rs r s t hrun
    calc outputsOf (runCommand State.reset r)
        = some (Outputs.ofReply (replyOf (decodeCmd r.cmd) r)) := outputsOf_runCommand _ r
      _ = outputsOf (runCommands s (rs ++ [r])) := (outputsOf_runCommands_concat rs r s).symm
      _ = some t.out := by rw [hrun]; rfl

/-! ### The idle combination (R39) -/

/-- No kind of fault has the code of `OK` (R84). -/
theorem kindCode_ne_zero (f : CodecFault) : kindCode f ≠ 0#3 := by
  cases f <;> simp [kindCode]

/-- An outcome shows status 0 exactly when it is valid: the two ports never disagree (R35). -/
theorem Outputs.ofReply_status_eq_zero_iff (r : Reply) :
    (Outputs.ofReply r).status = 0#3 ↔ (Outputs.ofReply r).outValid = true := by
  cases r with
  | block hex => simp [Outputs.ofReply]
  | pin digits => simp [Outputs.ofReply]
  | fault f => simp [Outputs.ofReply, kindCode_ne_zero]

/-- Settles O49: a step leaves the ports of an outcome, and no outcome shows the idle combination. -/
theorem idlePortsOnlyAfterReset : Obligations.IdlePortsOnlyAfterReset := by
  refine ⟨rfl, ?_⟩
  rintro s t hstep ⟨hstatus, hvalid⟩
  rw [step_next hstep, State.answer_out] at hstatus hvalid
  rw [Outputs.ofReply_status_eq_zero_iff, hvalid] at hstatus
  cases hstatus

end Sys2Proof.Machine
end

section
/-!
SUPPORT. The encoding (spec/30_encoding.md): the command words of DECODE (R72) and the outcome codes (R84, R85).
-/
namespace Sys2Proof.Machine

/-! ### The command words of DECODE (R72) -/

/-- The `op` bit alone selects DECODE (R70). -/
theorem decodeCmd_of_bit_two {w : BitVec 3} (h : w.getLsbD 2 = true) : decodeCmd w = .decode := by
  rw [decodeCmd, opField, if_pos h]

/-- DECODE reads the block and the PAN, not the command word that named it. -/
theorem decodeReply_presentCmd (lowerOk : Bool) (s : State) (w : BitVec 3) :
    decodeReply lowerOk (s.presentCmd w).inp = decodeReply lowerOk s.inp := rfl

/-- The output ports after any of the four words of DECODE. -/
theorem outputsOf_step_presentCmd_decode {w : BitVec 3} (h : w.getLsbD 2 = true) (s : State) :
    outputsOf (step (s.presentCmd w)) = some (Outputs.ofReply (decodeReply Config.hexLowerOk s.inp)) := by
  rw [outputsOf_step, State.presentCmd_cmd, decodeCmd_of_bit_two h, replyOf, decodeReply_presentCmd]

/-- Settles O2: both words have bit 2 set, so both leave the ports of DECODE's reply. -/
theorem decodeIgnoresFormatBits : Obligations.DecodeIgnoresFormatBits := by
  intro w hw
  refine ⟨decodeCmd_of_bit_two hw, fun s => ?_⟩
  rw [outputsOf_step_presentCmd_decode hw, outputsOf_step_presentCmd_decode (w := 0b100#3) (by decide)]

/-! ### The outcome codes (R84, R85) -/

/-- The kind codes end at 4; 5 to 7 are not used (R84). -/
theorem kindCode_le_four (f : CodecFault) : kindCode f ≤ 4#3 := by
  cases f <;> simp [kindCode]

theorem Outputs.ofReply_status_le_four (r : Reply) : (Outputs.ofReply r).status ≤ 4#3 := by
  cases r with
  | block hex => simp [Outputs.ofReply]
  | pin digits => simp [Outputs.ofReply]
  | fault f => exact kindCode_le_four f

/-- `OK` comes with reason 0 (R85); a fault never has the status of `OK`. -/
theorem Outputs.ofReply_reason_of_status_zero {r : Reply} (h : (Outputs.ofReply r).status = 0#3) :
    (Outputs.ofReply r).reason = 0#3 := by
  cases r with
  | block hex => rfl
  | pin digits => rfl
  | fault f => exact absurd h (kindCode_ne_zero f)

/-- Settles O41: the two tables entry by entry, and for a step the codes of the reply it answers. -/
theorem kindAndReasonCodes : Obligations.KindAndReasonCodes := by
  refine ⟨fun _ => rfl, fun _ => rfl, fun _ => rfl, fun _ => rfl,
    rfl, rfl, rfl, rfl, rfl, rfl, rfl, rfl, rfl, rfl, rfl, fun s t hstep => ?_⟩
  rw [step_next hstep, State.answer_out]
  exact ⟨Outputs.ofReply_status_le_four _, Outputs.ofReply_status_eq_zero_iff _,
    Outputs.ofReply_reason_of_status_zero⟩

end Sys2Proof.Machine
end

section
/-!
SUPPORT. The ENCODE commands (spec/40_encode_command.md): when each check of R100 decides the outcome (R102 to R105),
and what a block shows (R110, R111).
-/
namespace Sys2Proof.Machine

/-! ### The character ranges (R16) as numbers -/

theorem isDigit_iff_toNat (c : Byte) : isDigit c = true ↔ 0x30 ≤ c.toNat ∧ c.toNat ≤ 0x39 := by
  simp [isDigit, BitVec.le_def]

theorem isUpperHex_iff_toNat (c : Byte) :
    isUpperHex c = true ↔ (0x30 ≤ c.toNat ∧ c.toNat ≤ 0x39) ∨ (0x41 ≤ c.toNat ∧ c.toNat ≤ 0x46) := by
  simp [isUpperHex, isDigit_iff_toNat, BitVec.le_def]

/-! ### The ENCODE command of a format (R71) -/

/-- The command that encodes in format `f`. -/
def encodeCommand : Format → Instr
  | .iso0 => .encodeIso0
  | .iso1 => .encodeIso1
  | .iso2 => .encodeIso2
  | .iso3 => .encodeIso3

theorem exists_eq_encodeCommand {i : Instr} (h : i ≠ .decode) : ∃ f, i = encodeCommand f := by
  cases i with
  | encodeIso0 => exact ⟨.iso0, rfl⟩
  | encodeIso1 => exact ⟨.iso1, rfl⟩
  | encodeIso2 => exact ⟨.iso2, rfl⟩
  | encodeIso3 => exact ⟨.iso3, rfl⟩
  | decode => exact absurd rfl h

theorem exists_implemented_encodeCommand {i : Instr} (h : i = .encodeIso0 ∨ i = .encodeIso3) :
    ∃ f, (fmtTable f).implemented = true ∧ i = encodeCommand f := by
  rcases h with rfl | rfl
  · exact ⟨.iso0, rfl, rfl⟩
  · exact ⟨.iso3, rfl, rfl⟩

theorem exists_unimplemented_encodeCommand {i : Instr} (h : i = .encodeIso1 ∨ i = .encodeIso2) :
    ∃ f, (fmtTable f).implemented = false ∧ i = encodeCommand f := by
  rcases h with rfl | rfl
  · exact ⟨.iso1, rfl, rfl⟩
  · exact ⟨.iso2, rfl, rfl⟩

theorem replyOf_encodeCommand (f : Format) (r : Inputs) : replyOf (encodeCommand f) r = encodeReply f r := by
  cases f <;> rfl

/-! ### The reply and the ports determine how the procedure ended -/

theorem encodeReply_eq_fault_iff {f : Format} {r : Inputs} {e : CodecFault} :
    encodeReply f r = .fault e ↔ encodeBlock f r.pin r.pan r.rnd = .error e := by
  cases h : encodeBlock f r.pin r.pan r.rnd with
  | error e' => simp [encodeReply_error h]
  | ok hex => simp [encodeReply_ok h]

/-- No two rows of R221 share both codes. -/
theorem codes_injective {e e' : CodecFault} (hk : kindCode e = kindCode e') (hr : reasonCode e = reasonCode e') :
    e = e' := by
  rcases e with r | r | r | r <;> rcases e' with r' | r' | r' | r' <;>
    simp only [kindCode, BitVec.reduceEq] at hk
  all_goals -- two reasons of one kind
    cases r <;> cases r' <;> simp [reasonCode] at hr ⊢

/-- The ports show the codes of a fault only when that fault is the outcome. -/
theorem Outputs.ofReply_eq_faultPorts_iff {r : Reply} {e : CodecFault} :
    Outputs.ofReply r = Outputs.faultPorts (kindCode e) (reasonCode e) ↔ r = .fault e := by
  constructor
  · intro h
    have hstatus : (Outputs.ofReply r).status = kindCode e := by rw [h]; rfl
    have hreason : (Outputs.ofReply r).reason = reasonCode e := by rw [h]; rfl
    cases r with
    | block hex => exact absurd hstatus.symm (kindCode_ne_zero e)
    | pin digits => exact absurd hstatus.symm (kindCode_ne_zero e)
    | fault e' => rw [codes_injective hstatus hreason]
  · rintro rfl
    exact Outputs.ofReply_fault e

/-- An ENCODE command whose procedure ends in a fault leaves the ports of that fault and changes nothing else. -/
theorem exec_encodeCommand_error {f : Format} {s : State} {e : CodecFault}
    (h : encodeBlock f s.inp.pin s.inp.pan s.inp.rnd = .error e) :
    exec (encodeCommand f) s = .next { s with out := Outputs.faultPorts (kindCode e) (reasonCode e) } := by
  rw [exec_eq_answer, replyOf_encodeCommand, encodeReply_error h]
  rfl

theorem outputsOf_encodeCommand_fault_iff {f : Format} {s : State} {e : CodecFault} :
    outputsOf (exec (encodeCommand f) s) = some (Outputs.faultPorts (kindCode e) (reasonCode e)) ↔
      encodeBlock f s.inp.pin s.inp.pan s.inp.rnd = .error e := by
  rw [outputsOf_exec, replyOf_encodeCommand, Option.some_inj, Outputs.ofReply_eq_faultPorts_iff,
    encodeReply_eq_fault_iff]

/-- An ENCODE command that ends valid had an implemented format and well-formed operands, and answered the block. -/
theorem exec_encodeCommand_valid {f : Format} {s t : State} (h : exec (encodeCommand f) s = .next t)
    (hv : t.out.outValid = true) :
    (fmtTable f).implemented = true ∧ pinWf s.inp.pin = true ∧
      ∃ pan, s.inp.pan = some pan ∧ panWf (some pan) = true ∧
        t = s.answer (.block (hexRender (xor16 (pinField f s.inp.pin s.inp.rnd) (panField pan)))) := by
  rw [exec_eq_answer, replyOf_encodeCommand] at h
  cases h
  cases hb : encodeBlock f s.inp.pin s.inp.pan s.inp.rnd with
  | error e =>
    rw [State.answer_out, encodeReply_error hb] at hv
    cases hv
  | ok hex =>
    obtain ⟨hf, hpin, pan, hpan, hwf, rfl⟩ := encodeBlock_ok hb
    exact ⟨hf, hpin, pan, hpan, hwf, by rw [encodeReply_ok hb]⟩

/-! ### Step 1: the format (R102) -/

theorem encodeBlock_unimplemented {f : Format} (hf : (fmtTable f).implemented = false) (pin : Chars)
    (pan : Option Chars) (rnd : Vector Nibble 10) :
    encodeBlock f pin pan rnd = .error (.unsupportedFormat .encFormat) := by
  simp [encodeBlock, hf]

/-- Settles O7: ISO-1 and ISO-2 are not implemented, and step 1 ends the procedure before it reads an operand. -/
theorem unimplementedFormatsAlwaysFault : Obligations.UnimplementedFormatsAlwaysFault := by
  intro i s hi
  obtain ⟨f, hf, rfl⟩ := exists_unimplemented_encodeCommand hi
  exact exec_encodeCommand_error (encodeBlock_unimplemented hf _ _ _)

/-! ### Steps 2 and 3: the PIN (R103, R104) -/

theorem pinCheck_eq_length_iff (pin : Chars) :
    pinCheck pin = some .length ↔ pin.length < 4 ∨ 12 < pin.length := by
  refine ⟨fun h => ?_, pinCheck_length⟩
  unfold pinCheck at h
  split at h
  · assumption
  · split at h <;> cases h

/-- An implemented format ends in `InvalidPin` exactly when the PIN's own checks say so, whatever the PAN. -/
theorem encodeBlock_invalidPin_iff {f : Format} (hf : (fmtTable f).implemented = true) {pin : Chars}
    {pan : Option Chars} {rnd : Vector Nibble 10} {r : PinReason} :
    encodeBlock f pin pan rnd = .error (.invalidPin r) ↔ pinCheck pin = some r := by
  unfold encodeBlock
  rw [if_neg (not_not.mpr hf)]
  cases pinCheck pin with
  | some r' => simp
  | none => cases panCheck pan <;> simp

theorem exists_nonDigit_iff (cs : Chars) :
    (∃ c ∈ cs, c.toNat < 0x30 ∨ 0x39 < c.toNat) ↔ cs.all isDigit = false := by
  have hc (c : Byte) : c.toNat < 0x30 ∨ 0x39 < c.toNat ↔ ¬ isDigit c = true := by
    rw [isDigit_iff_toNat]
    omega
  simp only [hc, List.all_eq_false]

/-- Settles O8: the procedure ends in `InvalidPin(LENGTH)` exactly when step 2 does, and the codes (1, 1) belong to no
other outcome. -/
theorem pinLengthOutsideFourToTwelveFaults : Obligations.PinLengthOutsideFourToTwelveFaults := by
  intro i s hi
  obtain ⟨f, hf, rfl⟩ := exists_implemented_encodeCommand hi
  constructor
  · intro hlen
    exact exec_encodeCommand_error ((encodeBlock_invalidPin_iff hf).mpr (pinCheck_length hlen))
  · rintro ⟨h4, h12⟩ hout
    have hlen : pinCheck s.inp.pin = some .length :=
      (encodeBlock_invalidPin_iff hf).mp (outputsOf_encodeCommand_fault_iff.mp hout)
    rw [pinCheck_eq_length_iff] at hlen
    omega

/-- Settles O9: with an accepted length, step 3 decides between `InvalidPin(NON_NUMERIC)` and a well-formed PIN. -/
theorem nonDigitInPinFaults : Obligations.NonDigitInPinFaults := by
  intro i s hi h4 h12
  obtain ⟨f, hf, rfl⟩ := exists_implemented_encodeCommand hi
  constructor
  · intro hc
    have hcheck := pinCheck_nonNumeric h4 h12 ((exists_nonDigit_iff _).mp hc)
    exact exec_encodeCommand_error ((encodeBlock_invalidPin_iff hf).mpr hcheck)
  · intro hdigits hout
    have hall : s.inp.pin.all isDigit = true :=
      List.all_eq_true.mpr fun c hc => (isDigit_iff_toNat c).mpr (hdigits c hc)
    have hnone := (pinCheck_none_iff _).mpr ((pinWf_iff _).mpr ⟨h4, h12, hall⟩)
    have hcheck : pinCheck s.inp.pin = some .nonNumeric :=
      (encodeBlock_invalidPin_iff hf).mp (outputsOf_encodeCommand_fault_iff.mp hout)
    rw [hnone] at hcheck
    cases hcheck

/-! ### Steps 4 to 6: the PAN (R105) -/

theorem encodeBlock_panError {f : Format} {pin : Chars} {pan : Option Chars} {r : PanReason} (rnd : Vector Nibble 10)
    (hf : (fmtTable f).implemented = true) (hpin : pinWf pin = true) (hpan : panCheck pan = .error r) :
    encodeBlock f pin pan rnd = .error (.invalidPan r) := by
  rw [← pinCheck_none_iff] at hpin
  simp [encodeBlock, hf, hpin, hpan]

theorem panCheck_absent : panCheck none = .error .absent := rfl

theorem charAt_panTail (pan : Chars) (j : Nat) : charAt (panTail pan) j = charAt pan (pan.length - 13 + j) := by
  simp [charAt, panTail]

/-- One non-digit among the last 13 characters, at index `k` of the PAN. -/
theorem panTail_all_isDigit_eq_false {pan : Chars} {k : Nat} (hk : pan.length - 13 ≤ k) (hlt : k < pan.length)
    (hd : isDigit (charAt pan k) = false) : (panTail pan).all isDigit = false := by
  rw [← Bool.not_eq_true]
  intro hall
  have hj : k - (pan.length - 13) < (panTail pan).length := by
    simp only [panTail, List.length_drop]
    omega
  have hdigit := isDigit_charAt hall hj
  rw [charAt_panTail, Nat.add_sub_cancel' hk, hd] at hdigit
  cases hdigit

/-- Settles O10: with a well-formed PIN the procedure ends as the PAN checks do. -/
theorem encodeRequiresUsablePan : Obligations.EncodeRequiresUsablePan := by
  intro i s hi hpin
  obtain ⟨f, hf, rfl⟩ := exists_implemented_encodeCommand hi
  have hfault {r : PanReason} (hcheck : panCheck s.inp.pan = .error r) :
      exec (encodeCommand f) s =
        .next { s with out := Outputs.faultPorts (kindCode (.invalidPan r)) (reasonCode (.invalidPan r)) } :=
    exec_encodeCommand_error (encodeBlock_panError s.inp.rnd hf hpin hcheck)
  refine ⟨fun hpan => ?_, fun pan hpan hshort => ?_, fun pan k hpan h13 hk hlt hd => ?_⟩
  · exact hfault (hpan ▸ panCheck_absent)
  · exact hfault (hpan ▸ panCheck_short hshort)
  · exact hfault (hpan ▸ panCheck_nonNumeric h13 (panTail_all_isDigit_eq_false hk hlt hd))

/-! ### The block (R110, R111) -/

/-- Settles O12: a valid outcome is a rendered block, and the renderer writes uppercase hexadecimal digits only. -/
theorem encodedBlockIsUppercaseHex : Obligations.EncodedBlockIsUppercaseHex := by
  intro i s t hi hexec hvalid k
  obtain ⟨f, rfl⟩ := exists_eq_encodeCommand hi
  obtain ⟨-, -, pan, -, -, rfl⟩ := exec_encodeCommand_valid hexec hvalid
  rw [← isUpperHex_iff_toNat, State.answer_out, Outputs.ofReply_block]
  simp only [Outputs.blockPorts, Fin.getElem_fin, hexRender_getElem, isUpperHex_hexChar]

/-- In lanes 0 to 3 the PAN field is 0, so a block shows the PIN field there in clear. -/
theorem block_getElem_of_lt_four (f : Format) (pin pan : Chars) (rnd : Vector Nibble 10) {i : Nat} (h : i < 4) :
    (hexRender (xor16 (pinField f pin rnd) (panField pan)))[i] = hexChar (nibbleAt (pinField f pin rnd) i) := by
  rw [block_getElem, panLane_of_lt_four pan h, BitVec.xor_zero]

/-- The PIN's first two characters are in clear: rendering the digit gives the character back. -/
theorem block_getElem_pin_digit (f : Format) {pin : Chars} (pan : Chars) (rnd : Vector Nibble 10)
    (hpin : pinWf pin = true) {k : Nat} (hk : k < 2) :
    (hexRender (xor16 (pinField f pin rnd) (panField pan)))[2 + k] = charAt pin k := by
  obtain ⟨h4, h12, hall⟩ := (pinWf_iff _).mp hpin
  have hlt : k < pin.length := by omega
  rw [block_getElem_of_lt_four f pin pan rnd (by omega), pinField_digit f pin rnd hlt h12,
    hexChar_digVal _ (isDigit_charAt hall hlt)]

theorem hexChar_marker {f : Format} (hf : (fmtTable f).implemented = true) :
    hexChar (fmtTable f).marker = if encodeCommand f = .encodeIso3 then 0x33#8 else 0x30#8 := by
  cases f with
  | iso0 => rfl
  | iso1 => cases hf
  | iso2 => cases hf
  | iso3 => rfl

/-- Settles O13: the four characters are the PIN field's lanes 0 to 3, the PAN field being 0 there. -/
theorem blockShowsMarkerLengthAndTwoDigits : Obligations.BlockShowsMarkerLengthAndTwoDigits := by
  intro i s t hi hexec hvalid
  obtain ⟨f, rfl⟩ := exists_eq_encodeCommand hi
  obtain ⟨hf, hpin, pan, -, -, rfl⟩ := exec_encodeCommand_valid hexec hvalid
  refine ⟨?_, ?_, ?_, ?_⟩
  · rw [← hexChar_marker hf, ← pinField_marker f s.inp.pin s.inp.rnd]
    exact block_getElem_of_lt_four f _ pan _ (by decide)
  · rw [← pinField_len f s.inp.pin s.inp.rnd]
    exact block_getElem_of_lt_four f _ pan _ (by decide)
  · exact block_getElem_pin_digit f pan _ hpin (k := 0) (by decide)
  · exact block_getElem_pin_digit f pan _ hpin (k := 1) (by decide)

end Sys2Proof.Machine
end

section
/-!
SUPPORT. The PIN-field nibble encoder (spec/41_pin_field.md): the field lane by lane (R122 to R126), the range of each
lane (R129), and the PIN read back from the field (R130).
-/
namespace Sys2Proof.Machine

/-! ### The field lane by lane (R122 to R126) -/

/-- The value of a digit is its code's distance from that of `0` (R16). -/
theorem digVal_toNat : ∀ c : Byte, isDigit c = true → (digVal c).toNat = c.toNat - 0x30 := by decide

theorem pinField_getElem?_fill (f : Format) (pin : Chars) (rnd : Vector Nibble 10) {j : Nat}
    (hj : j < 14 - pin.length) : (pinField f pin rnd)[2 + pin.length + j]? = some (fillNibble f rnd j) := by
  have hi : 2 + pin.length + j < 16 := by omega
  rw [Vector.getElem?_eq_getElem hi, ← nibbleAt_of_lt _ hi, pinField_fill f pin rnd hj]

/-- Settles O17: each lane is the one the encoder's equation for its position gives. -/
theorem pinFieldLanes : Obligations.PinFieldLanes := by
  intro pin rnd hpin
  obtain ⟨-, h12, hall⟩ := (pinWf_iff _).mp hpin
  refine ⟨fun f => ⟨pinField_marker f pin rnd, pinField_len_toNat f rnd h12, fun k hk => ?_⟩,
    fun j hj => ?_, fun j hj => ?_⟩
  · rw [pinField_digit f pin rnd hk h12, digVal_toNat _ (isDigit_charAt hall hk)]
  · rw [pinField_getElem?_fill .iso0 pin rnd hj, fillNibble_iso0]
  · rw [pinField_getElem?_fill .iso3 pin rnd hj, fillNibble_iso3]

/-! ### The range of each lane (R129) -/

/-- The two formats ENCODE implements have the markers 0 and 3 (R121). -/
theorem marker_eq_zero_or_three {f : Format} (hf : f = .iso0 ∨ f = .iso3) :
    (fmtTable f).marker = 0#4 ∨ (fmtTable f).marker = 3#4 := by
  rcases hf with rfl | rfl
  · exact .inl rfl
  · exact .inr rfl

theorem pinField_digit_le_nine (f : Format) {pin : Chars} (rnd : Vector Nibble 10) (hpin : pinWf pin = true) {i : Nat}
    (h2 : 2 ≤ i) (hi : i ≤ 1 + pin.length) : nibbleAt (pinField f pin rnd) i ≤ 9#4 := by
  obtain ⟨-, h12, hall⟩ := (pinWf_iff _).mp hpin
  obtain ⟨k, rfl⟩ := Nat.exists_eq_add_of_le h2
  have hk : k < pin.length := by omega
  rw [pinField_digit f pin rnd hk h12]
  exact digVal_le_nine _ (isDigit_charAt hall hk)

/-- Every lane after the digits holds the fill nibble of its distance from the first of them (R124). -/
theorem exists_fillNibble_of_le (f : Format) {pin : Chars} (rnd : Vector Nibble 10) {i : Nat}
    (hlen : 2 + pin.length ≤ i) (hi : i < 16) :
    ∃ j < 14 - pin.length, nibbleAt (pinField f pin rnd) i = fillNibble f rnd j := by
  obtain ⟨j, rfl⟩ := Nat.exists_eq_add_of_le hlen
  have hj : j < 14 - pin.length := by omega
  exact ⟨j, hj, pinField_fill f pin rnd hj⟩

theorem admittedDraw_excludesMax_le : ∀ v : Nibble, admittedDraw true .iso3 v = true → v ≤ 14#4 := by decide

/-- Under `FILL_EXCLUDES_MAX` the draws ISO-3 reads stop below maxFill (R127). -/
theorem drawAt_le_of_drawsAdmitted {len : Nat} {rnd : Vector Nibble 10}
    (h : drawsAdmitted true .iso3 len rnd = true) {j : Nat} (hj : j < 14 - len) : drawAt rnd j ≤ 14#4 := by
  have hall : (List.range (14 - len)).all (fun j => admittedDraw true .iso3 (drawAt rnd j)) = true := h
  exact admittedDraw_excludesMax_le _ (List.all_eq_true.mp hall j (List.mem_range.mpr hj))

/-- Settles O18: the two header lanes by their equations; every other lane is a digit lane or a fill lane. -/
theorem pinFieldRanges : Obligations.PinFieldRanges := by
  intro excludesMax f pin rnd hf hpin hdraws F
  obtain ⟨h4, h12, -⟩ := (pinWf_iff _).mp hpin
  have hmarker : F[0] = (fmtTable f).marker := pinField_marker f pin rnd
  have hlen : F[1].toNat = pin.length := pinField_len_toNat f rnd h12
  have hlane (i : Fin 16) : F[i] = nibbleAt (pinField f pin rnd) i := (nibbleAt_of_lt F i.isLt).symm
  rw [hmarker, hlen]
  refine ⟨marker_eq_zero_or_three hf, h4, h12, fun i h2 hi => ?_, fun i hi hiso0 => ?_, fun i hi hiso3 hmax => ?_⟩
  · rw [hlane]
    exact pinField_digit_le_nine f rnd hpin h2 hi
  · obtain ⟨j, -, hfill⟩ := exists_fillNibble_of_le f rnd hi i.isLt
    rw [hlane, hfill, hiso0, fillNibble_iso0]
  · obtain ⟨j, hj, hfill⟩ := exists_fillNibble_of_le f rnd hi i.isLt
    subst hiso3 hmax
    rw [hlane, hfill, fillNibble_iso3]
    exact drawAt_le_of_drawsAdmitted hdraws hj

/-! ### The PIN read back (R130) -/

/-- Settles O19: the length lane gives back the PIN's length, and rendering a digit lane its character. -/
theorem pinReadBackFromField : Obligations.PinReadBackFromField := by
  intro f pin rnd hpin
  obtain ⟨-, h12, hall⟩ := (pinWf_iff _).mp hpin
  rw [pinField_len_toNat f rnd h12]
  refine List.ext_getElem (decRender_length _ _) fun k _ hk => ?_
  rw [decRender_getElem, pinField_digit f pin rnd hk h12, digChar_digVal _ (isDigit_charAt hall hk),
    charAt_of_lt pin hk]

end Sys2Proof.Machine
end

section
/-!
SUPPORT. The PAN-field extractor (spec/42_pan_field.md): the field lane by lane (R145, R147), the check digit it does
not read (R145), and the PANs the commands cannot tell apart (R148).
-/
namespace Sys2Proof.Machine

/-! ### The field lane by lane (R145, R147) -/

theorem panField_getElem (pan : Chars) {i : Nat} (h : i < 16) : (panField pan)[i] = panLane pan i := by
  rw [← nibbleAt_of_lt _ h, nibbleAt_panField pan h]

theorem panLane_window (pan : Chars) (k : Nat) :
    panLane pan (4 + k) = digVal (charAt pan (pan.length - 13 + k)) := by
  simp [panLane]

/-- The window and the check digit of a checked PAN are digits (R141). -/
theorem isDigit_charAt_of_panWf {pan : Chars} (hpan : panWf (some pan) = true) {k : Nat} (hk : k < 13) :
    isDigit (charAt pan (pan.length - 13 + k)) = true := by
  obtain ⟨h13, hall⟩ := (panWf_iff pan).mp hpan
  have hlt : k < (panTail pan).length := by
    rw [panTail, List.length_drop]
    omega
  rw [← charAt_panTail]
  exact isDigit_charAt hall hlt

/-! ### The check digit (R145) -/

theorem charAt_append_of_lt {front : Chars} (cs : Chars) {k : Nat} (hk : k < front.length) :
    charAt (front ++ cs) k = charAt front k :=
  List.getD_append _ _ _ _ hk

/-- Every lane reads a character before the last one. -/
theorem panLane_append_checkDigit {front : Chars} (h12 : 12 ≤ front.length) (c c' : Byte) {i : Nat} (hi : i < 16) :
    panLane (front ++ [c]) i = panLane (front ++ [c']) i := by
  have hk : front.length + 1 - 13 + (i - 4) < front.length := by omega
  simp only [panLane, List.length_append, List.length_singleton, charAt_append_of_lt _ hk]

theorem panField_append_checkDigit {front : Chars} (h12 : 12 ≤ front.length) (c c' : Byte) :
    panField (front ++ [c]) = panField (front ++ [c']) :=
  Vector.ext fun i hi => by
    rw [panField_getElem _ hi, panField_getElem _ hi, panLane_append_checkDigit h12 c c' hi]

/-- Settles O20: a window lane is its character's digit value, and the window ends before the check digit. -/
theorem panWindowFillsLanesFourToFifteen : Obligations.PanWindowFillsLanesFourToFifteen := by
  refine ⟨fun pan k hpan hk => ?_, fun _ c c' h12 => panField_append_checkDigit h12 c c'⟩
  have hdigit := isDigit_charAt_of_panWf hpan (hk.trans (by decide))
  rw [nibbleAt_panField pan (by omega), panLane_window, digVal_toNat _ hdigit]

/-- Settles O21: lanes 0 to 3 are the constant zero, the others digits of the checked window. -/
theorem panFieldLeadingLanesAreZero : Obligations.PanFieldLeadingLanesAreZero := by
  intro pan
  have hzero {i : Nat} (h : i < 4) : (panField pan)[i] = 0#4 := by
    rw [panField_getElem, panLane_of_lt_four pan h]
  refine ⟨hzero (by decide), hzero (by decide), hzero (by decide), hzero (by decide), fun hpan i _ => ?_⟩
  obtain ⟨h13, hall⟩ := (panWf_iff pan).mp hpan
  rw [Fin.getElem_fin, panField_getElem pan i.isLt]
  exact panLane_le_nine h13 hall i.isLt

/-! ### PANs with the same last 13 characters (R148) -/

section SameTail

variable {pan pan' : Chars} (h13 : 13 ≤ pan.length) (h13' : 13 ≤ pan'.length) (ht : panTail pan = panTail pan')

include h13 h13' ht

/-- The checks look at the tail alone: both PANs fail the same one, or both pass. -/
theorem panCheck_of_panTail :
    (panCheck (some pan) = .error .nonNumeric ∧ panCheck (some pan') = .error .nonNumeric) ∨
      (panCheck (some pan) = .ok pan ∧ panCheck (some pan') = .ok pan') := by
  cases hall : (panTail pan).all isDigit with
  | false => exact .inl ⟨panCheck_nonNumeric h13 hall, panCheck_nonNumeric h13' (ht ▸ hall)⟩
  | true =>
    exact .inr ⟨(panCheck_ok_iff _ _).mpr ⟨rfl, h13, hall⟩, (panCheck_ok_iff _ _).mpr ⟨rfl, h13', ht ▸ hall⟩⟩

/-- ENCODE uses the PAN only through its checks and its field (R100). -/
theorem encodeBlock_of_panTail (f : Format) (pin : Chars) (rnd : Vector Nibble 10) :
    encodeBlock f pin (some pan) rnd = encodeBlock f pin (some pan') rnd := by
  unfold encodeBlock
  rcases panCheck_of_panTail h13 h13' ht with ⟨h, h'⟩ | ⟨h, h'⟩
  · rw [h, h']
  · simp only [h, h', panField_of_panTail ht]

/-- DECODE uses the PAN only through its checks and its field (R190). -/
theorem decodeBlock_of_panTail (lowerOk : Bool) (pb : Chars) :
    decodeBlock lowerOk pb (some pan) = decodeBlock lowerOk pb (some pan') := by
  unfold decodeBlock
  rcases panCheck_of_panTail h13 h13' ht with ⟨h, h'⟩ | ⟨h, h'⟩
  · rw [h, h']
  · simp only [h, h', panField_of_panTail ht]

theorem encodeReply_of_panTail (f : Format) (r : Inputs) :
    encodeReply f { r with pan := some pan } = encodeReply f { r with pan := some pan' } := by
  simp only [encodeReply, encodeBlock_of_panTail h13 h13' ht]

theorem decodeReply_of_panTail (lowerOk : Bool) (r : Inputs) :
    decodeReply lowerOk { r with pan := some pan } = decodeReply lowerOk { r with pan := some pan' } := by
  simp only [decodeReply, decodeBlock_of_panTail h13 h13' ht]

theorem replyOf_of_panTail (i : Instr) (r : Inputs) :
    replyOf i { r with pan := some pan } = replyOf i { r with pan := some pan' } := by
  cases i with
  | encodeIso0 => exact encodeReply_of_panTail h13 h13' ht .iso0 r
  | encodeIso1 => exact encodeReply_of_panTail h13 h13' ht .iso1 r
  | encodeIso2 => exact encodeReply_of_panTail h13 h13' ht .iso2 r
  | encodeIso3 => exact encodeReply_of_panTail h13 h13' ht .iso3 r
  | decode => exact decodeReply_of_panTail h13 h13' ht Config.hexLowerOk r

end SameTail

/-- Settles O22: a command's output ports are those of its reply, and the reply sees the PAN's tail only. -/
theorem pansWithSameTailAreInterchangeable : Obligations.PansWithSameTailAreInterchangeable := by
  refine ⟨fun pan pan' i s h13 h13' ht => ?_, fun _ c c' h12 => panField_append_checkDigit h12 c c'⟩
  rw [outputsOf_exec, outputsOf_exec, State.present_inp, State.present_inp, replyOf_of_panTail h13 h13' ht]

end Sys2Proof.Machine
end

section
/-!
SUPPORT. The XOR combiner (spec/43_xor_combiner.md): its laws on fields (R162), and what XOR with the same and with
another PAN field gives (R163).
-/
namespace Sys2Proof.Machine

/-! ### The laws (R162) -/

theorem xor16_comm (A B : Field) : xor16 A B = xor16 B A :=
  Vector.ext fun i hi => by
    simp only [xor16_getElem, BitVec.xor_comm]

theorem xor16_assoc (A B C : Field) : xor16 (xor16 A B) C = xor16 A (xor16 B C) :=
  Vector.ext fun i hi => by
    simp only [xor16_getElem, BitVec.xor_assoc]

/-- Settles O23: the nibble laws are those of bit vectors, and the field laws hold lane by lane. -/
theorem xorCombinerLaws : Obligations.XorCombinerLaws := by
  refine ⟨fun a b => ⟨BitVec.xor_zero, BitVec.xor_self, BitVec.xor_comm a b, ?_⟩,
    fun A B => ⟨xor16_comm A B, xor16_xor16_cancel A B⟩⟩
  rw [BitVec.xor_assoc, BitVec.xor_self, BitVec.xor_zero]

/-! ### The lanes that XOR changes (R163) -/

theorem xor16_getElem_eq_left_iff (A B : Field) {i : Nat} (hi : i < 16) : (xor16 A B)[i] = A[i] ↔ B[i] = 0#4 := by
  rw [xor16_getElem, ← BitVec.xor_right_inj (x := B[i]) A[i], BitVec.xor_zero]

/-- R163 (c) for any two fields: only their difference acts on the lane. -/
theorem xor16_xor16_getElem_eq_iff (F A B : Field) {i : Nat} (hi : i < 16) :
    (xor16 (xor16 F A) B)[i] = F[i] ↔ A[i] = B[i] := by
  rw [xor16_assoc, xor16_getElem_eq_left_iff, xor16_getElem, BitVec.xor_eq_zero_iff]

theorem panField_getElem_of_lt_four (pan : Chars) {i : Nat} (h : i < 4) : (panField pan)[i] = 0#4 := by
  rw [panField_getElem, panLane_of_lt_four pan h]

/-- Settles O24: XOR is associative and self-inverse, and every PAN field is zero in lanes 0 to 3 (R147). -/
theorem xorWithPanFieldConsequences : Obligations.XorWithPanFieldConsequences := by
  intro F pan pan'
  refine ⟨fun i h4 => ?_, xor16_xor16_cancel F _, xor16_assoc F _ _, fun i => ?_, fun i h4 => ?_⟩
  · exact (xor16_getElem_eq_left_iff F _ i.isLt).mpr (panField_getElem_of_lt_four pan h4)
  · exact not_congr (xor16_xor16_getElem_eq_iff F _ _ i.isLt)
  · have hagree : (panField pan)[i.val] = (panField pan')[i.val] := by
      rw [panField_getElem_of_lt_four pan h4, panField_getElem_of_lt_four pan' h4]
    exact (xor16_xor16_getElem_eq_iff F _ _ i.isLt).mpr hagree

end Sys2Proof.Machine
end

section
/-!
SUPPORT. The renderers and the parser (spec/44_hex_renderer.md): the character of each nibble (R171), the codes the
parser accepts and the two inverse laws (R176), and the decimal characters (R180).
-/
namespace Sys2Proof.Machine

/-! ### The character of a nibble (R171, R180) -/

theorem hexChar_toNat (v : Nibble) :
    (hexChar v).toNat = if v.toNat ≤ 9 then 0x30 + v.toNat else 0x41 + (v.toNat - 10) := by
  revert v
  decide

theorem digChar_toNat (v : Nibble) : (digChar v).toNat = 0x30 + v.toNat := by
  have hv : v.toNat < 16 := v.isLt
  rw [digChar, BitVec.toNat_add, BitVec.toNat_setWidth, BitVec.toNat_ofNat]
  omega

/-- Settles O26: the code of each of the 16 values is the one `hexChar_toNat` gives. -/
theorem hexCharacterCodes : Obligations.HexCharacterCodes := by
  unfold Obligations.HexCharacterCodes
  simp only [hexChar_toNat]
  decide

/-! ### The accepted codes and their values (R176) -/

theorem isLowerHex_iff_toNat (c : Byte) : isLowerHex c = true ↔ 0x61 ≤ c.toNat ∧ c.toNat ≤ 0x66 := by
  simp [isLowerHex, BitVec.le_def]

theorem isHex_iff_toNat (lowerOk : Bool) (c : Byte) :
    isHex lowerOk c = true ↔
      (0x30 ≤ c.toNat ∧ c.toNat ≤ 0x39) ∨ (0x41 ≤ c.toNat ∧ c.toNat ≤ 0x46) ∨
      (lowerOk = true ∧ 0x61 ≤ c.toNat ∧ c.toNat ≤ 0x66) := by
  rw [isHex, Bool.or_eq_true, Bool.and_eq_true, isUpperHex_iff_toNat, isLowerHex_iff_toNat, or_assoc,
    and_comm (b := lowerOk = true)]

/-- The value of a digit is its distance from the first code of its range, and for a letter 10 more. -/
theorem hexVal_toNat {lowerOk : Bool} {c : Byte} (h : isHex lowerOk c = true) :
    (hexVal c).toNat =
      if c.toNat ≤ 0x39 then c.toNat - 0x30
      else if c.toNat ≤ 0x46 then c.toNat - 0x41 + 10
      else c.toNat - 0x61 + 10 := by
  simp only [hexVal, isDigit_iff_toNat, BitVec.le_def, BitVec.toNat_ofNat]
  rcases (isHex_iff_toNat lowerOk c).mp h with hdigit | hupper | ⟨-, hlower⟩
  · rw [if_pos (by omega), if_pos (by omega)]
    bv_omega
  · rw [if_neg (by omega), if_pos (by omega), if_neg (by omega), if_pos (by omega)]
    bv_omega
  · rw [if_neg (by omega), if_neg (by omega), if_neg (by omega), if_neg (by omega)]
    bv_omega

/-! ### A parsed character rendered again (R176) -/

/-- A lower-case letter raised to upper case; every other character as it is. -/
theorem hexChar_hexVal {lowerOk : Bool} {c : Byte} (h : isHex lowerOk c = true) :
    hexChar (hexVal c) = if isLowerHex c = true then c - 0x20#8 else c := by
  apply BitVec.eq_of_toNat_eq
  simp only [isLowerHex_iff_toNat]
  rw [hexChar_toNat]
  rcases (isHex_iff_toNat lowerOk c).mp h with hdigit | hupper | ⟨-, hlower⟩
  · have hval : (hexVal c).toNat = c.toNat - 0x30 := by rw [hexVal_toNat h, if_pos hdigit.2]
    rw [if_pos (by omega), if_neg (by omega)]
    omega
  · have hval : (hexVal c).toNat = c.toNat - 0x41 + 10 := by
      rw [hexVal_toNat h, if_neg (by omega), if_pos hupper.2]
    rw [if_neg (by omega), if_neg (by omega)]
    omega
  · have hval : (hexVal c).toNat = c.toNat - 0x61 + 10 := by
      rw [hexVal_toNat h, if_neg (by omega), if_neg (by omega)]
    rw [if_neg (by omega), if_pos hlower]
    bv_omega

theorem hexRender_of_parsed {lowerOk : Bool} {pb : Chars} (hlen : pb.length = 16)
    (hall : pb.all (isHex lowerOk) = true) :
    (hexRender (Vector.ofFn fun (i : Fin 16) => hexVal (charAt pb i.val))).toList =
      pb.map fun c => if isLowerHex c = true then c - 0x20#8 else c := by
  refine List.ext_getElem (by simp [hlen]) fun i _ hi => ?_
  have hi' : i < pb.length := by simpa using hi
  have hhex : isHex lowerOk pb[i] = true := List.all_eq_true.mp hall _ (List.getElem_mem hi')
  rw [Vector.getElem_toList, hexRender_getElem, Vector.getElem_ofFn, charAt_of_lt pb hi', List.getElem_map,
    hexChar_hexVal hhex]

/-- Settles O27: the accepted codes are three ranges, and the inverse laws hold character by character. -/
theorem hexParserAcceptsAndInverts : Obligations.HexParserAcceptsAndInverts := fun lowerOk =>
  ⟨isHex_iff_toNat lowerOk, fun _ => hexVal_toNat, hexParse_hexRender lowerOk,
    fun _ hlen hall => ⟨_, hexParse_of_all hall, hexRender_of_parsed hlen hall⟩⟩

/-! ### The decimal renderer (R180) -/

/-- Settles O28: character `k` is the decimal character of lane `2 + k`, whatever the lane holds. -/
theorem decimalRendererCharacters : Obligations.DecimalRendererCharacters := by
  refine fun n F _ _ => ⟨decRender_length n F, fun k hk => ?_⟩
  have hlt : k < (decRender n F).length := by rwa [decRender_length]
  rw [charAt_of_lt _ hlt, decRender_getElem, digChar_toNat]

end Sys2Proof.Machine
end

section
/-!
SUPPORT. The DECODE command (spec/45_decode_command.md): when each check of R190 decides the outcome (R191 to R200), the
PIN it answers (R201), the fill it does not read (R202), and what it makes of a block that ENCODE answered under the
same PAN tail (R204) and under another PAN (R206).
-/
namespace Sys2Proof.Machine

/-! ### The reply and the ports determine how the procedure ended -/

theorem decodeReply_eq_fault_iff {lowerOk : Bool} {r : Inputs} {e : CodecFault} :
    decodeReply lowerOk r = .fault e ↔ decodeBlock lowerOk r.pb r.pan = .error e := by
  cases h : decodeBlock lowerOk r.pb r.pan with
  | error e' => simp [decodeReply_error h]
  | ok pin => simp [decodeReply_ok h]

/-- A DECODE whose procedure ends in a fault leaves the ports of that fault and changes nothing else. -/
theorem exec_decode_error {s : State} {e : CodecFault}
    (h : decodeBlock Config.hexLowerOk s.inp.pb s.inp.pan = .error e) :
    exec .decode s = .next { s with out := Outputs.faultPorts (kindCode e) (reasonCode e) } := by
  rw [exec_eq_answer, replyOf, decodeReply_error h]
  rfl

/-- A DECODE whose procedure ends in a PIN answers it. -/
theorem exec_decode_ok {s : State} {pin : Chars}
    (h : decodeBlock Config.hexLowerOk s.inp.pb s.inp.pan = .ok pin) :
    exec .decode s = .next (s.answer (.pin pin)) := by
  rw [exec_eq_answer, replyOf, decodeReply_ok h]

theorem outputsOf_decode_fault_iff {s : State} {e : CodecFault} :
    outputsOf (exec .decode s) = some (Outputs.faultPorts (kindCode e) (reasonCode e)) ↔
      decodeBlock Config.hexLowerOk s.inp.pb s.inp.pan = .error e := by
  rw [outputsOf_exec, replyOf, Option.some_inj, Outputs.ofReply_eq_faultPorts_iff, decodeReply_eq_fault_iff]

/-! ### The recovered PIN field (R198) -/

/-- The PIN field DECODE recovers: the XOR of the parsed block with the PAN field. -/
def recoveredField (pb pan : Chars) : Field :=
  xor16 (Vector.ofFn fun (i : Fin 16) => hexVal (charAt pb i.val)) (panField pan)

theorem nibbleAt_recoveredField (pb pan : Chars) {i : Nat} (h : i < 16) :
    nibbleAt (recoveredField pb pan) i = hexVal (charAt pb i) ^^^ panLane pan i :=
  recovered_lane pb pan h

/-- In lane 1 the PAN field is 0: the recovered length depends on the block alone (R199). -/
theorem recoveredField_len (pb pan : Chars) : nibbleAt (recoveredField pb pan) 1 = hexVal (charAt pb 1) := by
  rw [nibbleAt_recoveredField pb pan (by decide), panLane_of_lt_four pan (by decide), BitVec.xor_zero]

/-- A lane of the recovered field reads the block in its own character only. -/
theorem recoveredField_congr {pb pb' : Chars} (pan : Chars) {i : Nat} (h : charAt pb i = charAt pb' i) :
    nibbleAt (recoveredField pb pan) i = nibbleAt (recoveredField pb' pan) i := by
  by_cases hi : i < 16
  · rw [nibbleAt_recoveredField pb pan hi, nibbleAt_recoveredField pb' pan hi, h]
  · simp [nibbleAt, hi]

section Recovered

variable {lowerOk : Bool} {pb pan : Chars} (hb : blockWf lowerOk pb = true) (hp : panWf (some pan) = true)

include hb hp

/-- The block and the PAN being well-formed, the procedure ends as reading the recovered field does. -/
theorem decodeBlock_eq_readPin :
    decodeBlock lowerOk pb (some pan) = (readPin (recoveredField pb pan)).mapError .invalidPinblock :=
  decodeBlock_of_wf hb hp

theorem decodeBlock_invalidPinblock_iff {r : BlockReason} :
    decodeBlock lowerOk pb (some pan) = .error (.invalidPinblock r) ↔ readPin (recoveredField pb pan) = .error r := by
  rw [decodeBlock_eq_readPin hb hp]
  cases readPin (recoveredField pb pan) <;> simp [Except.mapError]

theorem decodeBlock_ok_of_readPin {pin : Chars} (h : readPin (recoveredField pb pan) = .ok pin) :
    decodeBlock lowerOk pb (some pan) = .ok pin := by
  rw [decodeBlock_eq_readPin hb hp, h]
  rfl

end Recovered

/-! ### Steps 1 and 2: the length and the raw marker (R191, R192) -/

section Checks

variable {lowerOk : Bool} {pb : Chars}

theorem decodeBlock_length (pan : Option Chars) (hl : pb.length ≠ 16) :
    decodeBlock lowerOk pb pan = .error (.invalidPinblock .length) := by
  rw [decodeBlock, if_pos hl]

theorem decodeBlock_decMarker (pan : Option Chars) (hl : pb.length = 16)
    (hm : charAt pb 0 ≠ 0x30#8 ∧ charAt pb 0 ≠ 0x33#8) :
    decodeBlock lowerOk pb pan = .error (.unsupportedFormat .decMarker) := by
  rw [decodeBlock, if_neg (not_not.mpr hl), if_pos hm]

/-- The faults left when steps 1 and 2 have passed. -/
theorem decodeBlock_error_of_marker {pan : Option Chars} {e : CodecFault} (hl : pb.length = 16)
    (hm : charAt pb 0 = 0x30#8 ∨ charAt pb 0 = 0x33#8) (h : decodeBlock lowerOk pb pan = .error e) :
    (∃ r, e = .invalidPan r) ∨
      ∃ r, e = .invalidPinblock r ∧ (r = .badChar ∨ r = .pinlenRange ∨ r = .digitRange) := by
  cases hx : pb.all (isHex lowerOk) with
  | false =>
    rw [decodeBlock_badChar pan hl hm hx] at h
    cases h
    exact .inr ⟨_, rfl, .inl rfl⟩
  | true =>
    have hb : blockWf lowerOk pb = true := (blockWf_iff _ _).mpr ⟨hl, hx, hm⟩
    cases hp : panCheck pan with
    | error r =>
      rw [decodeBlock_panError hb hp] at h
      cases h
      exact .inl ⟨r, rfl⟩
    | ok p =>
      obtain ⟨rfl, hwf⟩ := (panCheck_ok_iff pan p).mp hp
      rw [decodeBlock_eq_readPin hb ((panWf_iff p).mpr hwf)] at h
      cases hr : readPin (recoveredField pb p) with
      | error r =>
        rw [hr] at h
        cases h
        exact .inr ⟨r, rfl, .inr (readPin_error hr)⟩
      | ok pin =>
        rw [hr] at h
        cases h

theorem decodeBlock_decMarker_iff (pan : Option Chars) (hl : pb.length = 16) :
    decodeBlock lowerOk pb pan = .error (.unsupportedFormat .decMarker) ↔
      charAt pb 0 ≠ 0x30#8 ∧ charAt pb 0 ≠ 0x33#8 := by
  refine ⟨fun h => ?_, decodeBlock_decMarker pan hl⟩
  by_contra hm
  have hm' : charAt pb 0 = 0x30#8 ∨ charAt pb 0 = 0x33#8 := by tauto
  obtain ⟨r, he⟩ | ⟨r, he, -⟩ := decodeBlock_error_of_marker hl hm' h <;> cases he

theorem decodeBlock_length_iff (pan : Option Chars) :
    decodeBlock lowerOk pb pan = .error (.invalidPinblock .length) ↔ pb.length ≠ 16 := by
  refine ⟨fun h hl => ?_, decodeBlock_length pan⟩
  by_cases hm : charAt pb 0 = 0x30#8 ∨ charAt pb 0 = 0x33#8
  · obtain ⟨r, he⟩ | ⟨r, he, hr⟩ := decodeBlock_error_of_marker hl hm h
    · cases he
    · cases he
      simp at hr
  · rw [decodeBlock_decMarker pan hl (not_or.mp hm)] at h
    cases h

end Checks

/-- Settles O30: the procedure ends in `InvalidPinblock(LENGTH)` exactly when step 1 does, and the codes (4, 1) belong
to no other outcome. -/
theorem blockLengthOtherThanSixteenFaults : Obligations.BlockLengthOtherThanSixteenFaults := by
  refine fun s => ⟨fun hl => exec_decode_error (decodeBlock_length s.inp.pan hl), fun hl hout => ?_⟩
  exact (decodeBlock_length_iff s.inp.pan).mp (outputsOf_decode_fault_iff.mp hout) hl

/-- Settles O31: with 16 characters, step 2 alone ends the procedure in `UnsupportedFormat(DEC_MARKER)`. -/
theorem rawMarkerOtherThanZeroOrThreeFaults : Obligations.RawMarkerOtherThanZeroOrThreeFaults := by
  intro s hl
  refine ⟨fun h0 h3 => exec_decode_error (decodeBlock_decMarker s.inp.pan hl ⟨h0, h3⟩), fun hm hout => ?_⟩
  obtain ⟨h0, h3⟩ := (decodeBlock_decMarker_iff s.inp.pan hl).mp (outputsOf_decode_fault_iff.mp hout)
  exact hm.elim h0 h3

/-! ### Steps 4 to 6: the PAN (R194) -/

/-- Settles O32: with a well-formed block the procedure ends as the PAN checks do. -/
theorem decodeRequiresUsablePan : Obligations.DecodeRequiresUsablePan := by
  intro s hb
  have hfault {r : PanReason} (hcheck : panCheck s.inp.pan = .error r) :
      exec .decode s =
        .next { s with out := Outputs.faultPorts (kindCode (.invalidPan r)) (reasonCode (.invalidPan r)) } :=
    exec_decode_error (decodeBlock_panError hb hcheck)
  refine ⟨fun hpan => ?_, fun pan hpan hshort => ?_, fun pan k hpan h13 hk hlt hd => ?_⟩
  · exact hfault (hpan ▸ panCheck_absent)
  · exact hfault (hpan ▸ panCheck_short hshort)
  · exact hfault (hpan ▸ panCheck_nonNumeric h13 (panTail_all_isDigit_eq_false hk hlt hd))

/-! ### Step 7: the recovered length (R199) -/

theorem readPin_pinlenRange_iff (F : Field) :
    readPin F = .error .pinlenRange ↔ (nibbleAt F 1).toNat < 4 ∨ 12 < (nibbleAt F 1).toNat := by
  constructor
  · intro h
    simp only [readPin] at h
    split at h
    · assumption
    · split at h <;> cases h
  · intro h
    simp only [readPin, if_pos h]

/-- Settles O33: step 7 reads lane 1 of the recovered field, which is the block's second character. -/
theorem recoveredLengthOutsideFourToTwelveFaults : Obligations.RecoveredLengthOutsideFourToTwelveFaults := by
  intro s hb hp
  cases hpan : s.inp.pan with
  | none =>
    rw [hpan] at hp
    cases hp
  | some pan =>
    rw [hpan] at hp
    have hiff : decodeBlock Config.hexLowerOk s.inp.pb s.inp.pan = .error (.invalidPinblock .pinlenRange) ↔
        (hexVal (charAt s.inp.pb 1)).toNat < 4 ∨ 12 < (hexVal (charAt s.inp.pb 1)).toNat := by
      rw [hpan, decodeBlock_invalidPinblock_iff hb hp, readPin_pinlenRange_iff, recoveredField_len]
    refine ⟨fun hrange => exec_decode_error (hiff.mpr hrange), fun hrange hout => ?_⟩
    have := hiff.mp (outputsOf_decode_fault_iff.mp hout)
    omega

/-! ### Step 8: the recovered digits (R200) -/

theorem readPin_digitRange {F : Field} (h4 : 4 ≤ (nibbleAt F 1).toNat) (h12 : (nibbleAt F 1).toNat ≤ 12) {k : Nat}
    (hk : k < (nibbleAt F 1).toNat) (hd : 9#4 < nibbleAt F (2 + k)) : readPin F = .error .digitRange := by
  have hr : ¬ ((nibbleAt F 1).toNat < 4 ∨ 12 < (nibbleAt F 1).toNat) := by omega
  have ha : ((List.range (nibbleAt F 1).toNat).any fun k => decide (9#4 < nibbleAt F (2 + k))) = true :=
    List.any_eq_true.mpr ⟨k, List.mem_range.mpr hk, decide_eq_true hd⟩
  simp only [readPin, if_neg hr, if_pos ha]

/-- Settles O34: one lane above 9 among the `n` digit lanes ends step 8 in the fault. -/
theorem recoveredDigitAboveNineFaults : Obligations.RecoveredDigitAboveNineFaults := by
  intro s pan n k hb hpan hp hn h4 h12 hk hd
  have hlen : (nibbleAt (recoveredField s.inp.pb pan) 1).toNat = n := by rw [recoveredField_len, hn]
  rw [← nibbleAt_recoveredField s.inp.pb pan (by omega)] at hd
  have hread : readPin (recoveredField s.inp.pb pan) = .error .digitRange :=
    readPin_digitRange (by omega) (by omega) (by omega) hd
  exact exec_decode_error (hpan ▸ (decodeBlock_invalidPinblock_iff hb hp).mpr hread)

/-! ### Step 9: the PIN (R201) -/

theorem decRender_getD (n : Nat) (F : Field) (k : Nat) :
    (decRender n F).getD k 0#8 = if k < n then digChar (nibbleAt F (2 + k)) else 0#8 := by
  split
  · have hk : k < (decRender n F).length := by rwa [decRender_length]
    rw [List.getD_eq_getElem _ _ hk, decRender_getElem]
  · exact List.getD_eq_default _ _ (by rw [decRender_length]; omega)

/-- The ports that show a rendered PIN: its length, its characters, and 0x00 beyond them (R35). -/
theorem answer_decRender (s : State) (n : Nat) (F : Field) :
    s.answer (.pin (decRender n F)) =
      { s with out := Outputs.pinPorts (BitVec.ofNat 4 n) (Vector.ofFn fun k => (decRender n F).getD k 0#8) } := by
  rw [State.answer, Outputs.ofReply_pin, decRender_length]

/-- Settles O29: every check passes, and step 9 renders the recovered digit lanes. -/
theorem decodeResult : Obligations.DecodeResult := by
  intro s pan n hb hpan hp hn h4 h12 hd
  have hlen : (nibbleAt (recoveredField s.inp.pb pan) 1).toNat = n := by rw [recoveredField_len, hn]
  have hlane {k : Nat} (hk : k < 12) := nibbleAt_recoveredField s.inp.pb pan (i := 2 + k) (by omega)
  have hread : readPin (recoveredField s.inp.pb pan) = .ok (decRender n (recoveredField s.inp.pb pan)) := by
    rw [← hlen] at h4 h12 hd ⊢
    exact readPin_of_wf h4 h12 fun k hk => hlane (hk.trans_le h12) ▸ hd k hk
  have hok : decodeBlock Config.hexLowerOk s.inp.pb s.inp.pan = .ok _ := hpan ▸ decodeBlock_ok_of_readPin hb hp hread
  refine ⟨_, (exec_decode_ok hok).trans (congrArg _ (answer_decRender s n _)), fun k => ?_⟩
  rw [Fin.getElem_fin, Vector.getElem_ofFn, decRender_getD, hlane k.isLt]

/-! ### The fill (R202) -/

/-- Reading the field looks at no lane beyond the last PIN digit. -/
theorem readPin_congr {F F' : Field} (h : ∀ i < 2 + (nibbleAt F 1).toNat, nibbleAt F i = nibbleAt F' i) :
    readPin F = readPin F' := by
  have hlen : nibbleAt F' 1 = nibbleAt F 1 := (h 1 (by omega)).symm
  have hlane : ∀ k ∈ List.range (nibbleAt F 1).toNat, nibbleAt F (2 + k) = nibbleAt F' (2 + k) := fun k hk =>
    h (2 + k) (Nat.add_lt_add_left (List.mem_range.mp hk) 2)
  have hany : ((List.range (nibbleAt F 1).toNat).any fun k => decide (9#4 < nibbleAt F (2 + k))) =
      (List.range (nibbleAt F 1).toNat).any fun k => decide (9#4 < nibbleAt F' (2 + k)) :=
    Bool.eq_iff_iff.mpr <| by
      simp only [List.any_eq_true]
      exact exists_congr fun k => and_congr_right fun hk => by rw [hlane k hk]
  have hpin : decRender (nibbleAt F 1).toNat F = decRender (nibbleAt F 1).toNat F' :=
    List.map_congr_left fun k hk => by rw [hlane k hk]
  simp only [readPin, hlen, hany, hpin]

/-- Two blocks of hexadecimal characters that agree up to the last PIN digit decode alike under every PAN. -/
theorem decodeBlock_congr {lowerOk : Bool} {pb pb' : Chars} (pan : Option Chars)
    (hl : pb.length = 16) (hl' : pb'.length = 16)
    (hx : pb.all (isHex lowerOk) = true) (hx' : pb'.all (isHex lowerOk) = true)
    (h : ∀ i < 2 + (hexVal (charAt pb 1)).toNat, charAt pb i = charAt pb' i) :
    decodeBlock lowerOk pb pan = decodeBlock lowerOk pb' pan := by
  have h0 : charAt pb 0 = charAt pb' 0 := h 0 (by omega)
  by_cases hm : charAt pb 0 = 0x30#8 ∨ charAt pb 0 = 0x33#8
  · have hb : blockWf lowerOk pb = true := (blockWf_iff _ _).mpr ⟨hl, hx, hm⟩
    have hb' : blockWf lowerOk pb' = true := (blockWf_iff _ _).mpr ⟨hl', hx', h0 ▸ hm⟩
    cases hp : panCheck pan with
    | error r => rw [decodeBlock_panError hb hp, decodeBlock_panError hb' hp]
    | ok p =>
      obtain ⟨rfl, hwf⟩ := (panCheck_ok_iff pan p).mp hp
      have hp := (panWf_iff p).mpr hwf
      rw [decodeBlock_eq_readPin hb hp, decodeBlock_eq_readPin hb' hp, readPin_congr fun i hi => ?_]
      rw [recoveredField_len] at hi
      exact recoveredField_congr p (h i hi)
  · have hm' : charAt pb 0 ≠ 0x30#8 ∧ charAt pb 0 ≠ 0x33#8 := not_or.mp hm
    rw [decodeBlock_decMarker pan hl hm', decodeBlock_decMarker pan hl' (h0 ▸ hm')]

/-- Settles O36: the reply is that of the procedure, which sees the two blocks alike. -/
theorem decodeNeverReadsFill : Obligations.DecodeNeverReadsFill := by
  intro s s' hpan hl hl' hx hx' h
  rw [outputsOf_exec, outputsOf_exec, replyOf, replyOf, decodeReply, decodeReply, ← hpan,
    decodeBlock_congr s.inp.pan hl hl' hx hx' h]

/-! ### A block that ENCODE answered (R204, R206) -/

theorem hexParse_ok_iff {lowerOk : Bool} {pb : Chars} {B : Field} :
    hexParse lowerOk pb = .ok B ↔
      pb.all (isHex lowerOk) = true ∧ (Vector.ofFn fun (i : Fin 16) => hexVal (charAt pb i.val)) = B := by
  unfold hexParse
  split <;> simp [*]

theorem recoveredField_hexRender (B : Field) (pan : Chars) :
    recoveredField (hexRender B).toList pan = xor16 B (panField pan) := by
  rw [recoveredField, (hexParse_ok_iff.mp (hexParse_hexRender true B)).2]

theorem charAt_toList (hex : Vector Byte 16) {i : Nat} (h : i < 16) : charAt hex.toList i = hex[i] := by
  rw [charAt_of_lt _ (by simpa using h), Vector.getElem_toList]

section EncodedBlock

variable {f : Format} {pin : Chars} (pan : Chars) (rnd : Vector Nibble 10)

/-- Every block ENCODE answers is well-formed for DECODE: it is rendered, and its first character is the marker. -/
theorem blockWf_encoded (lowerOk : Bool) (hf : (fmtTable f).implemented = true) :
    blockWf lowerOk (hexRender (xor16 (pinField f pin rnd) (panField pan))).toList = true := by
  refine (blockWf_iff _ _).mpr ⟨Vector.length_toList, (hexParse_ok_iff.mp (hexParse_hexRender lowerOk _)).1, ?_⟩
  rw [charAt_toList _ (by decide), block_getElem_of_lt_four f pin pan rnd (by decide), pinField_marker,
    hexChar_marker hf]
  split
  · exact .inr rfl
  · exact .inl rfl

/-- DECODE parses back the XOR of the two fields' lanes. -/
theorem hexVal_charAt_encoded {i : Nat} (h : i < 16) :
    hexVal (charAt (hexRender (xor16 (pinField f pin rnd) (panField pan))).toList i) =
      nibbleAt (pinField f pin rnd) i ^^^ panLane pan i := by
  rw [charAt_toList _ h, block_getElem f pin pan rnd h, hexVal_hexChar]

/-- Lane 1 of a block is the PIN's length, whatever the PAN. -/
theorem hexVal_charAt_encoded_len (h12 : pin.length ≤ 12) :
    (hexVal (charAt (hexRender (xor16 (pinField f pin rnd) (panField pan))).toList 1)).toNat = pin.length := by
  rw [hexVal_charAt_encoded pan rnd (by decide), panLane_of_lt_four pan (by decide), BitVec.xor_zero,
    pinField_len_toNat f rnd h12]

/-- Under another PAN a digit comes out XORed with the difference of the two PAN lanes (R163, R206). -/
theorem recovered_digit_encoded (pan' : Chars) (h12 : pin.length ≤ 12) {k : Nat} (hk : k < pin.length) :
    hexVal (charAt (hexRender (xor16 (pinField f pin rnd) (panField pan))).toList (2 + k)) ^^^ panLane pan' (2 + k) =
      digVal (charAt pin k) ^^^ (panLane pan (2 + k) ^^^ panLane pan' (2 + k)) := by
  rw [hexVal_charAt_encoded pan rnd (by omega), pinField_digit f pin rnd hk h12, BitVec.xor_assoc]

/-- The PIN read from its own field. -/
theorem readPin_pinField (f : Format) (hpin : pinWf pin = true) : readPin (pinField f pin rnd) = .ok pin := by
  obtain ⟨h4, h12, -⟩ := (pinWf_iff _).mp hpin
  have hlen := pinField_len_toNat f rnd h12
  rw [readPin_of_wf (by omega) (by omega) fun k hk => pinField_digit_le_nine f rnd hpin (by omega) (by omega),
    pinReadBackFromField f pin rnd hpin]

/-- Under the PAN of the ENCODE the two XORs cancel, and DECODE recovers the PIN field itself (R112). -/
theorem decodeBlock_encoded (lowerOk : Bool) (hf : (fmtTable f).implemented = true) (hpin : pinWf pin = true)
    (hpan : panWf (some pan) = true) :
    decodeBlock lowerOk (hexRender (xor16 (pinField f pin rnd) (panField pan))).toList (some pan) = .ok pin := by
  apply decodeBlock_ok_of_readPin (blockWf_encoded pan rnd lowerOk hf) hpan
  rw [recoveredField_hexRender, xor16_xor16_cancel, readPin_pinField rnd f hpin]

end EncodedBlock

/-- The host reads back from the ports the PIN they show. -/
theorem Outputs.ofReply_pin_pinChars {pin : Chars} (h12 : pin.length ≤ 12) :
    (Outputs.ofReply (.pin pin)).pinChars = pin := by
  have hlen : (BitVec.ofNat 4 pin.length).toNat = pin.length := by
    rw [BitVec.toNat_ofNat]
    omega
  rw [Outputs.ofReply_pin, Outputs.pinChars, Outputs.pinPorts, hlen]
  refine List.ext_getElem (by simpa using h12) fun k _ hk => ?_
  rw [List.getElem_take, Vector.getElem_toList, Vector.getElem_ofFn, List.getD_eq_getElem _ _ hk]

/-- Settles O38: DECODE sees the PAN's tail only (R148), so the two PANs decode the block alike, one of them being the
PAN of the ENCODE. -/
theorem decodeInvertsEncodeUnderSameTail : Obligations.DecodeInvertsEncodeUnderSameTail := by
  intro i s t u pan pan' hi hexec hvalid hpan h13' htail hpb hpan'
  obtain ⟨f, rfl⟩ := exists_eq_encodeCommand hi
  obtain ⟨hf, hpin, p, hp, hwf, rfl⟩ := exec_encodeCommand_valid hexec hvalid
  obtain rfl : pan = p := Option.some_inj.mp (hpan.symm.trans hp)
  have hok : decodeBlock Config.hexLowerOk u.inp.pb u.inp.pan = .ok s.inp.pin := by
    rw [hpb, hpan', decodeBlock_of_panTail h13' ((panWf_iff pan).mp hwf).1 htail]
    exact decodeBlock_encoded pan s.inp.rnd Config.hexLowerOk hf hpin hwf
  exact ⟨_, exec_decode_ok hok, rfl, Outputs.ofReply_pin_pinChars ((pinWf_iff _).mp hpin).2.1⟩

/-- In the first two digit lanes every PAN field is 0, so the PIN's first two characters come out right (R206). -/
theorem digChar_digit_of_lt_two {pin : Chars} (hpin : pinWf pin = true) (pan pan' : Chars) {k : Nat} (hk : k < 2) :
    digChar (digVal (charAt pin k) ^^^ (panLane pan (2 + k) ^^^ panLane pan' (2 + k))) = charAt pin k := by
  obtain ⟨h4, -, hall⟩ := (pinWf_iff _).mp hpin
  rw [panLane_of_lt_four pan (by omega), panLane_of_lt_four pan' (by omega), BitVec.xor_zero, BitVec.xor_zero,
    digChar_digVal _ (isDigit_charAt hall (by omega))]

/-- Settles O39: the recovered lanes are the digits XORed with the difference of the PAN lanes, and O34 and O29 say what
DECODE makes of them. -/
theorem decodeWithAnotherPan : Obligations.DecodeWithAnotherPan := by
  intro i s t u pan pan' hi hexec hvalid hpan hwf' hpb hpan' digit
  obtain ⟨f, rfl⟩ := exists_eq_encodeCommand hi
  obtain ⟨hf, hpin, p, hp, -, rfl⟩ := exec_encodeCommand_valid hexec hvalid
  obtain rfl : pan = p := Option.some_inj.mp (hpan.symm.trans hp)
  obtain ⟨h4, h12, -⟩ := (pinWf_iff _).mp hpin
  have hb : blockWf Config.hexLowerOk u.inp.pb = true := hpb ▸ blockWf_encoded pan s.inp.rnd Config.hexLowerOk hf
  have hlen : s.inp.pin.length = (hexVal (charAt u.inp.pb 1)).toNat :=
    hpb ▸ (hexVal_charAt_encoded_len pan s.inp.rnd h12).symm
  have hdigit {k : Nat} (hk : k < s.inp.pin.length) :
      hexVal (charAt u.inp.pb (2 + k)) ^^^ panLane pan' (2 + k) = digit k :=
    hpb ▸ recovered_digit_encoded pan s.inp.rnd pan' h12 hk
  constructor
  · rintro ⟨k, hk, h9⟩
    exact recoveredDigitAboveNineFaults u pan' _ k hb hpan' hwf' hlen h4 h12 hk (hdigit hk ▸ h9)
  · intro h9
    obtain ⟨ch, hnext, hch⟩ :=
      decodeResult u pan' _ hb hpan' hwf' hlen h4 h12 fun k hk => hdigit hk ▸ h9 k hk
    have hdigits (k : Fin 12) (hk : k.val < s.inp.pin.length) : ch[k] = digChar (digit k) := by
      rw [hch, if_pos hk, hdigit hk]
    have hfirst (k : Fin 12) (hk : k.val < 2) : ch[k] = charAt s.inp.pin k :=
      (hdigits k (by omega)).trans (digChar_digit_of_lt_two hpin pan pan' hk)
    exact ⟨ch, hnext, hdigits, hfirst 0 (by decide), hfirst 1 (by decide)⟩

end Sys2Proof.Machine
end

section
/-!
SUPPORT. The exceptions (spec/60_exceptions.md): what taking a fault changes (R230), and which command raises which
kind (R222 to R225).
-/
namespace Sys2Proof.Machine

/-! ### Taking a fault (R230) -/

/-- Only a fault has a status other than `OK`. -/
theorem Outputs.exists_eq_fault_of_status_ne_zero {r : Reply} (h : (Outputs.ofReply r).status ≠ 0#3) :
    ∃ e, r = .fault e := by
  cases r with
  | block hex => exact absurd rfl h
  | pin digits => exact absurd rfl h
  | fault e => exact ⟨e, rfl⟩

theorem exec_next {i : Instr} {s t : State} (h : exec i s = .next t) : t = s.answer (replyOf i s.inp) := by
  rw [exec_eq_answer] at h
  cases h
  rfl

/-- A command that shows a status other than `OK` took the fault it answered. -/
theorem exec_next_fault {i : Instr} {s t : State} (h : exec i s = .next t) (hstatus : t.out.status ≠ 0#3) :
    ∃ e, replyOf i s.inp = .fault e ∧ t = s.takeFault e := by
  obtain rfl := exec_next h
  obtain ⟨e, he⟩ := Outputs.exists_eq_fault_of_status_ne_zero hstatus
  exact ⟨e, he, congrArg s.answer he⟩

/-- Settles O42: ports that are not valid have a status other than `OK`, so the command took a fault. -/
theorem faultChangesOnlyThePorts : Obligations.FaultChangesOnlyThePorts := by
  intro i s t hexec hvalid
  have hstatus : t.out.status ≠ 0#3 := by
    rw [exec_next hexec, State.answer_out] at hvalid ⊢
    rw [Ne, Outputs.ofReply_status_eq_zero_iff, hvalid]
    exact Bool.false_ne_true
  obtain ⟨e, -, rfl⟩ := exec_next_fault hexec hstatus
  exact ⟨codes_mem_faultCodes e, rfl⟩

/-! ### The kinds each command raises (R222 to R225) -/

/-- The faults of ENCODE: the format's when it is not implemented, otherwise one of the PIN or of the PAN. -/
theorem encodeBlock_error {f : Format} {pin : Chars} {pan : Option Chars} {rnd : Vector Nibble 10} {e : CodecFault}
    (h : encodeBlock f pin pan rnd = .error e) :
    (fmtTable f).implemented = true ∧ ((∃ r, e = .invalidPin r) ∨ ∃ r, e = .invalidPan r) ∨
      (fmtTable f).implemented = false ∧ e = .unsupportedFormat .encFormat := by
  cases hf : (fmtTable f).implemented with
  | false =>
    rw [encodeBlock_unimplemented hf] at h
    cases h
    exact .inr ⟨rfl, rfl⟩
  | true =>
    refine .inl ⟨rfl, ?_⟩
    cases hpin : pinCheck pin with
    | some r =>
      rw [(encodeBlock_invalidPin_iff hf).mpr hpin] at h
      cases h
      exact .inl ⟨r, rfl⟩
    | none =>
      have hwf := (pinCheck_none_iff pin).mp hpin
      cases hpan : panCheck pan with
      | error r =>
        rw [encodeBlock_panError rnd hf hwf hpan] at h
        cases h
        exact .inr ⟨r, rfl⟩
      | ok p =>
        obtain rfl := ((panCheck_ok_iff pan p).mp hpan).1
        rw [encodeBlock_of_wf rnd hf hwf ((panWf_some_iff p).mpr hpan)] at h
        cases h

/-- DECODE never raises `InvalidPin` (R222). -/
theorem decodeBlock_ne_invalidPin (lowerOk : Bool) (pb : Chars) (pan : Option Chars) (r : PinReason) :
    decodeBlock lowerOk pb pan ≠ .error (.invalidPin r) := by
  intro h
  by_cases hl : pb.length = 16
  · by_cases hm : charAt pb 0 = 0x30#8 ∨ charAt pb 0 = 0x33#8
    · obtain ⟨_, he⟩ | ⟨_, he, -⟩ := decodeBlock_error_of_marker hl hm h <;> cases he
    · rw [decodeBlock_decMarker pan hl (not_or.mp hm)] at h
      cases h
  · rw [decodeBlock_length pan hl] at h
    cases h

theorem encodeCommand_of_implemented {f : Format} (hf : (fmtTable f).implemented = true) :
    encodeCommand f = .encodeIso0 ∨ encodeCommand f = .encodeIso3 := by
  cases f with
  | iso0 => exact .inl rfl
  | iso3 => exact .inr rfl
  | iso1 | iso2 => cases hf

/-- The kind codes of each command: 1 and 2 from ENCODE of an implemented format, 3 from ENCODE of another, all but 1
from DECODE. -/
theorem kindCode_of_replyOf {i : Instr} {r : Inputs} {e : CodecFault} (h : replyOf i r = .fault e) :
    (i = .encodeIso0 ∨ i = .encodeIso3) ∧ (kindCode e = 1#3 ∨ kindCode e = 2#3) ∨
      i ≠ .decode ∧ kindCode e = 3#3 ∨ i = .decode ∧ kindCode e ≠ 1#3 := by
  by_cases hi : i = .decode
  · subst hi
    refine .inr (.inr ⟨rfl, ?_⟩)
    cases e with
    | invalidPin p => exact absurd (decodeReply_eq_fault_iff.mp h) (decodeBlock_ne_invalidPin _ _ _ p)
    | invalidPan _ | unsupportedFormat _ | invalidPinblock _ => simp [kindCode]
  · obtain ⟨f, rfl⟩ := exists_eq_encodeCommand hi
    rw [replyOf_encodeCommand] at h
    obtain ⟨hf, ⟨_, rfl⟩ | ⟨_, rfl⟩⟩ | ⟨-, rfl⟩ := encodeBlock_error (encodeReply_eq_fault_iff.mp h)
    · exact .inl ⟨encodeCommand_of_implemented hf, .inl rfl⟩
    · exact .inl ⟨encodeCommand_of_implemented hf, .inr rfl⟩
    · exact .inr (.inl ⟨hi, rfl⟩)

/-- The marker characters `0` and `3` are hexadecimal digits, lower case admitted or not (R175). -/
theorem isHex_marker : ∀ lowerOk : Bool, isHex lowerOk 0x30#8 = true ∧ isHex lowerOk 0x33#8 = true := by decide

/-- A 16-character block whose first character is no hexadecimal digit fails the marker check, which comes before the
parse (R225). -/
theorem exec_decode_of_nonHex_marker {s : State} (hl : s.inp.pb.length = 16)
    (hx : isHex Config.hexLowerOk (charAt s.inp.pb 0) = false) :
    exec .decode s = .next { s with out := Outputs.faultPorts 3#3 2#3 } := by
  obtain ⟨h0, h3⟩ := isHex_marker Config.hexLowerOk
  refine (rawMarkerOtherThanZeroOrThreeFaults s hl).1 (fun h => ?_) fun h => ?_
  · rw [h, h0] at hx
    cases hx
  · rw [h, h3] at hx
    cases hx

/-- Settles O43: the first three clauses read the kinds each command raises, the last is the marker check. -/
theorem faultKindsByCommand : Obligations.FaultKindsByCommand := by
  intro i s t hexec
  have hkinds {k : BitVec 3} (hk : k ≠ 0#3) (hstatus : t.out.status = k) :
      (i = .encodeIso0 ∨ i = .encodeIso3) ∧ (k = 1#3 ∨ k = 2#3) ∨ i ≠ .decode ∧ k = 3#3 ∨ i = .decode ∧ k ≠ 1#3 := by
    obtain ⟨e, hreply, rfl⟩ := exec_next_fault hexec (hstatus ▸ hk)
    exact hstatus ▸ kindCode_of_replyOf hreply
  refine ⟨fun h => ?_, fun h => ?_, fun h => ?_, ?_⟩
  · simpa using hkinds (by decide) h
  · simpa [or_assoc] using hkinds (by decide) h
  · simpa using hkinds (by decide) h
  · rintro rfl hl hx
    rw [exec_decode_of_nonHex_marker hl hx] at hexec
    cases hexec
    rfl

end Sys2Proof.Machine
end

section
/-!
SUPPORT. The ENCODE commands on well-formed operands (spec/40_encode_command.md): the block they answer (R106, R109) and
the PIN that DECODE reads back from it (R112), draws of 15 (R109), and draws outside the admitted set (R127).
-/
namespace Sys2Proof.Machine

/-! ### Complete records (R77) -/

theorem exists_pan_of_panWf {pan : Option Chars} (h : panWf pan = true) :
    ∃ p, pan = some p ∧ panWf (some p) = true := by
  cases pan with
  | none => cases h
  | some p => exact ⟨p, rfl, h⟩

/-- With an implemented format and well-formed operands an ENCODE command answers the block. -/
theorem exec_encodeCommand_of_wf {f : Format} (hf : (fmtTable f).implemented = true) {s : State} {pan : Chars}
    (hpin : pinWf s.inp.pin = true) (hpan : s.inp.pan = some pan) (hwf : panWf (some pan) = true) :
    exec (encodeCommand f) s =
      .next (s.answer (.block (hexRender (xor16 (pinField f s.inp.pin s.inp.rnd) (panField pan))))) := by
  rw [exec_eq_answer, replyOf_encodeCommand, encodeReply_ok (hpan ▸ encodeBlock_of_wf s.inp.rnd hf hpin hwf)]

/-- Settles O37: ENCODE answers the block of its operands, and DECODE of that block under the same PAN recovers the PIN
field, from which it reads the PIN. -/
theorem encodeThenDecodeReturnsPin : Obligations.EncodeThenDecodeReturnsPin := by
  intro i s hi hpin hpan
  obtain ⟨f, hf, rfl⟩ := exists_implemented_encodeCommand hi
  obtain ⟨pan, hpan, hwf⟩ := exists_pan_of_panWf hpan
  refine ⟨_, exec_encodeCommand_of_wf hf hpin hpan hwf, rfl, fun u hpb hpan' => ?_⟩
  have hok : decodeBlock Config.hexLowerOk u.inp.pb u.inp.pan = .ok s.inp.pin := by
    rw [hpb, hpan', hpan]
    exact decodeBlock_encoded pan s.inp.rnd Config.hexLowerOk hf hpin hwf
  exact ⟨_, exec_decode_ok hok, rfl, rfl, Outputs.ofReply_pin_pinChars ((pinWf_iff _).mp hpin).2.1⟩

/-! ### The block character by character (R106, R109) -/

theorem block_getElem_marker (f : Format) (pin pan : Chars) (rnd : Vector Nibble 10) :
    (hexRender (xor16 (pinField f pin rnd) (panField pan)))[0] = hexChar (fmtTable f).marker := by
  rw [block_getElem_of_lt_four f pin pan rnd (by decide), pinField_marker]

/-- The block of an implemented format: each character renders the lane of the PIN field XORed with the PAN lane. -/
theorem exec_encodeCommand_result {f : Format} (hf : (fmtTable f).implemented = true) {s : State} {pan : Chars}
    (hpin : pinWf s.inp.pin = true) (hpan : s.inp.pan = some pan) (hwf : panWf (some pan) = true) :
    ∃ hex : Vector Byte 16,
      exec (encodeCommand f) s = .next { s with out := Outputs.blockPorts hex } ∧
      hex[0] = hexChar (fmtTable f).marker ∧ hex[1] = hexChar (BitVec.ofNat 4 s.inp.pin.length) ∧
      (∀ k, k < s.inp.pin.length →
        hex[2 + k]? = some (hexChar (digVal (charAt s.inp.pin k) ^^^ panLane pan (2 + k)))) ∧
      (∀ j, j < 14 - s.inp.pin.length →
        hex[2 + s.inp.pin.length + j]? =
          some (hexChar (fillNibble f s.inp.rnd j ^^^ panLane pan (2 + s.inp.pin.length + j)))) := by
  obtain ⟨-, h12, -⟩ := (pinWf_iff _).mp hpin
  refine ⟨_, exec_encodeCommand_of_wf hf hpin hpan hwf, block_getElem_marker f _ pan _, ?_,
    fun k hk => ?_, fun j hj => ?_⟩
  · rw [block_getElem_of_lt_four f _ pan _ (by decide), pinField_len]
  · rw [Vector.getElem?_eq_getElem (by omega), block_getElem, pinField_digit f _ _ hk h12]
  · rw [Vector.getElem?_eq_getElem (by omega), block_getElem, pinField_fill f _ _ hj]

/-- Settles O5: the block of ISO-0, whose fill is the constant 15. -/
theorem encodeIso0Result : Obligations.EncodeIso0Result := by
  intro s pan hpin hpan hwf
  have hblock := exec_encodeCommand_result (f := .iso0) rfl hpin hpan hwf
  simp only [fillNibble_iso0] at hblock
  exact hblock

/-- Settles O6: the block of ISO-3, whose fill is drawn. -/
theorem encodeIso3Result : Obligations.EncodeIso3Result := by
  intro s pan hpin hpan hwf
  have hblock := exec_encodeCommand_result (f := .iso3) rfl hpin hpan hwf
  simp only [fillNibble_iso3] at hblock
  exact hblock

/-! ### Draws of 15 (R109) -/

/-- Beyond the marker lane a PIN field shows of its format nothing but the fill. -/
theorem nibbleAt_pinField_of_fill {f f' : Format} {pin : Chars} {rnd : Vector Nibble 10} (h12 : pin.length ≤ 12)
    (hfill : ∀ j < 14 - pin.length, fillNibble f rnd j = fillNibble f' rnd j) {i : Nat} (h0 : i ≠ 0) (hi : i < 16) :
    nibbleAt (pinField f pin rnd) i = nibbleAt (pinField f' pin rnd) i := by
  by_cases h1 : i = 1
  · rw [h1, pinField_len, pinField_len]
  · obtain ⟨k, rfl⟩ := Nat.exists_eq_add_of_le (show 2 ≤ i by omega)
    by_cases hk : k < pin.length
    · rw [pinField_digit f pin rnd hk h12, pinField_digit f' pin rnd hk h12]
    · obtain ⟨j, rfl⟩ := Nat.exists_eq_add_of_le (not_lt.mp hk)
      have hj : j < 14 - pin.length := by omega
      rw [← Nat.add_assoc, pinField_fill f pin rnd hj, pinField_fill f' pin rnd hj, hfill j hj]

/-- Settles O14: with draws of 15 the two formats have the same fill, so the blocks agree beyond the marker. -/
theorem iso3WithDrawsOfFifteenMatchesIso0 : Obligations.Iso3WithDrawsOfFifteenMatchesIso0 := by
  intro s hpin hpan hdraws
  obtain ⟨pan, hpan, hwf⟩ := exists_pan_of_panWf hpan
  have hfill (j : Nat) (hj : j < 14 - s.inp.pin.length) : fillNibble .iso0 s.inp.rnd j = fillNibble .iso3 s.inp.rnd j := by
    rw [fillNibble_iso0, fillNibble_iso3, hdraws j hj]
  refine ⟨_, _, exec_encodeCommand_of_wf (f := .iso0) rfl hpin hpan hwf,
    exec_encodeCommand_of_wf (f := .iso3) rfl hpin hpan hwf,
    block_getElem_marker .iso0 _ pan _, block_getElem_marker .iso3 _ pan _, fun k hk => ?_⟩
  have h12 := ((pinWf_iff _).mp hpin).2.1
  rw [Fin.getElem_fin, Fin.getElem_fin, block_getElem, block_getElem,
    nibbleAt_pinField_of_fill h12 hfill (Fin.val_ne_zero_iff.mpr hk) k.isLt]

/-! ### The admitted draws (R127) -/

theorem admittedDraw_iso3_iff :
    ∀ (excludesMax : Bool) (v : Nibble), admittedDraw excludesMax .iso3 v = true ↔ excludesMax = false ∨ v ≤ 14#4 := by
  decide

theorem drawsAdmitted_iso3_iff (excludesMax : Bool) (len : Nat) (rnd : Vector Nibble 10) :
    drawsAdmitted excludesMax .iso3 len rnd = true ↔ excludesMax = false ∨ ∀ j < 14 - len, drawAt rnd j ≤ 14#4 := by
  have hconst : fillIsConstant .iso3 = false := rfl
  simp only [drawsAdmitted, hconst, Bool.false_or, List.all_eq_true, List.mem_range, admittedDraw_iso3_iff]
  cases excludesMax with
  | false => simp
  | true => simp

/-- Whatever the parameters, a record within the capacities whose checks pass ends as its draws decide. -/
theorem runEncode_of_wf {p : Params} {f : Format} (hf : (fmtTable f).implemented = true) {s : State} {pan : Chars}
    (hcap : s.inp.withinCaps p = true) (hpin : pinWf s.inp.pin = true) (hpan : s.inp.pan = some pan)
    (hwf : panWf (some pan) = true) :
    runEncode p f s =
      if drawsAdmitted p.fillExcludesMax f s.inp.pin.length s.inp.rnd = true then
        .next (s.answer (.block (hexRender (xor16 (pinField f s.inp.pin s.inp.rnd) (panField pan)))))
      else .fault .drawNotAdmitted := by
  rw [runEncode, if_neg (not_not.mpr hcap), hpan, encodeBlock_of_wf s.inp.rnd hf hpin hwf]

/-- Settles O15: the checks having passed, whether ENCODE.ISO3 has a step is decided by the draws it reads. -/
theorem drawOutsideAdmittedSetHasNoStep : Obligations.DrawOutsideAdmittedSetHasNoStep := by
  intro p s hcap hpin hpan
  obtain ⟨pan, hpan, hwf⟩ := exists_pan_of_panWf hpan
  have hrun := runEncode_of_wf (f := .iso3) rfl hcap hpin hpan hwf
  simp only [drawsAdmitted_iso3_iff] at hrun
  refine ⟨fun hdraws => ⟨_, hrun.trans (if_pos hdraws)⟩, fun hmax hdraw => hrun.trans (if_neg ?_)⟩
  obtain ⟨j, hj, h15⟩ := hdraw
  rintro (hmax' | hle)
  · rw [hmax] at hmax'
    cases hmax'
  · have hdraw := hle j hj
    rw [h15] at hdraw
    exact absurd hdraw (by decide)

end Sys2Proof.Machine
end

section
/-!
SUPPORT. What every command leaves on the ports (spec/10_state.md section 5): each outcome is one of R34, so every step
keeps the ports legal (R35, R240); the input ports it leaves alone (R55).
-/
namespace Sys2Proof.Machine

/-! ### The ports of each outcome (R35) -/

/-- Settles O40: two columns as `Outputs.ofReply` has them; in the PIN's, a character beyond its end reads 0x00. -/
theorem outputPortsOfEachOutcome : Obligations.OutputPortsOfEachOutcome := by
  refine ⟨fun _ => rfl, fun pin _ => ⟨_, rfl, fun k => ?_⟩, fun _ => rfl⟩
  rw [Fin.getElem_fin, Vector.getElem_ofFn]
  split
  · rfl
  · exact List.getD_eq_default _ _ (not_lt.mp ‹_›)

theorem Outputs.ofReply_fault_showsFault (e : CodecFault) : (Outputs.ofReply (.fault e)).ShowsFault :=
  ⟨codes_mem_faultCodes e, rfl⟩

/-- The length nibble of a PIN is in the range of R80. -/
theorem ofNat_pin_length_mem {pin : Chars} (hpin : pinWf pin = true) :
    4#4 ≤ BitVec.ofNat 4 pin.length ∧ BitVec.ofNat 4 pin.length ≤ 12#4 := by
  obtain ⟨h4, h12, -⟩ := (pinWf_iff _).mp hpin
  simp only [BitVec.le_def, BitVec.toNat_ofNat]
  omega

/-- Characters 0 to 3 of a block are the marker, the length and two digits in clear (R111). -/
theorem Outputs.ofReply_block_showsBlock {f : Format} (hf : (fmtTable f).implemented = true) {pin : Chars}
    (hpin : pinWf pin = true) (pan : Chars) (rnd : Vector Nibble 10) :
    (Outputs.ofReply (.block (hexRender (xor16 (pinField f pin rnd) (panField pan))))).ShowsBlock := by
  obtain ⟨h4, -, hall⟩ := (pinWf_iff _).mp hpin
  rw [Outputs.ofReply_block]
  dsimp only [Outputs.blockPorts]
  refine ⟨rfl, fun i => ?_, ?_, ?_, ?_, ?_, ?_⟩
  · rw [Fin.getElem_fin, hexRender_getElem, isUpperHex_hexChar]
  · rw [block_getElem_marker, hexChar_marker hf]
    split
    · exact .inr rfl
    · exact .inl rfl
  · rw [block_getElem_of_lt_four f pin pan rnd (by decide), hexVal_hexChar, pinField_len]
    exact (ofNat_pin_length_mem hpin).1
  · rw [block_getElem_of_lt_four f pin pan rnd (by decide), hexVal_hexChar, pinField_len]
    exact (ofNat_pin_length_mem hpin).2
  · rw [block_getElem_pin_digit f pan rnd hpin (k := 0) (by decide)]
    exact isDigit_charAt hall (by omega)
  · rw [block_getElem_pin_digit f pan rnd hpin (k := 1) (by decide)]
    exact isDigit_charAt hall (by omega)

theorem Outputs.ofReply_pin_showsPin {pin : Chars} (hpin : pinWf pin = true) :
    (Outputs.ofReply (.pin pin)).ShowsPin := by
  obtain ⟨-, h12, hall⟩ := (pinWf_iff _).mp hpin
  have hlen : (BitVec.ofNat 4 pin.length).toNat = pin.length := by
    rw [BitVec.toNat_ofNat]
    omega
  rw [Outputs.ofReply_pin]
  dsimp only [Outputs.pinPorts]
  refine ⟨rfl, (ofNat_pin_length_mem hpin).1, (ofNat_pin_length_mem hpin).2, fun k => ?_⟩
  rw [hlen, Fin.getElem_fin, Vector.getElem_ofFn]
  split
  · exact isDigit_charAt hall ‹_›
  · exact List.getD_eq_default _ _ (not_lt.mp ‹_›)

/-! ### Every command ends with one of the outcomes (R34, R240) -/

theorem encodeReply_shows (f : Format) (r : Inputs) :
    (Outputs.ofReply (encodeReply f r)).ShowsFault ∨ (Outputs.ofReply (encodeReply f r)).ShowsBlock := by
  cases h : encodeBlock f r.pin r.pan r.rnd with
  | error e =>
    rw [encodeReply_error h]
    exact .inl (Outputs.ofReply_fault_showsFault e)
  | ok hex =>
    obtain ⟨hf, hpin, pan, -, -, rfl⟩ := encodeBlock_ok h
    rw [encodeReply_ok h]
    exact .inr (Outputs.ofReply_block_showsBlock hf hpin pan r.rnd)

/-- Reading a field answers a well-formed PIN only (R199 to R201). -/
theorem pinWf_of_readPin_ok {F : Field} {pin : Chars} (h : readPin F = .ok pin) : pinWf pin = true := by
  simp only [readPin] at h
  split at h
  · cases h
  · rename_i hlen
    split at h
    · cases h
    · rename_i hdigits
      cases h
      refine (pinWf_iff _).mpr ⟨by rw [decRender_length]; omega, by rw [decRender_length]; omega, ?_⟩
      refine List.all_eq_true.mpr fun c hc => ?_
      obtain ⟨k, hk, rfl⟩ := List.mem_map.mp hc
      refine isDigit_digChar _ (BitVec.not_lt.mp fun h9 => hdigits ?_)
      exact List.any_eq_true.mpr ⟨k, hk, decide_eq_true h9⟩

/-- DECODE answers a PIN only from a well-formed block and PAN, by reading the recovered field. -/
theorem decodeBlock_ok {lowerOk : Bool} {pb : Chars} {pan : Option Chars} {pin : Chars}
    (h : decodeBlock lowerOk pb pan = .ok pin) :
    blockWf lowerOk pb = true ∧ ∃ p, pan = some p ∧ panWf (some p) = true ∧
      readPin (recoveredField pb p) = .ok pin := by
  by_cases hl : pb.length = 16
  · by_cases hm : charAt pb 0 = 0x30#8 ∨ charAt pb 0 = 0x33#8
    · cases hx : pb.all (isHex lowerOk) with
      | false => cases (decodeBlock_badChar pan hl hm hx).symm.trans h
      | true =>
        have hb : blockWf lowerOk pb = true := (blockWf_iff _ _).mpr ⟨hl, hx, hm⟩
        cases hp : panCheck pan with
        | error r => cases (decodeBlock_panError hb hp).symm.trans h
        | ok p =>
          obtain rfl := ((panCheck_ok_iff pan p).mp hp).1
          have hwf := (panWf_some_iff p).mpr hp
          refine ⟨hb, p, rfl, hwf, ?_⟩
          rw [decodeBlock_eq_readPin hb hwf] at h
          cases hread : readPin (recoveredField pb p) with
          | error r => rw [hread] at h; cases h
          | ok pin' => rw [hread] at h; cases h; rfl
    · cases (decodeBlock_decMarker pan hl (not_or.mp hm)).symm.trans h
  · cases (decodeBlock_length pan hl).symm.trans h

theorem decodeReply_shows (lowerOk : Bool) (r : Inputs) :
    (Outputs.ofReply (decodeReply lowerOk r)).ShowsFault ∨ (Outputs.ofReply (decodeReply lowerOk r)).ShowsPin := by
  cases h : decodeBlock lowerOk r.pb r.pan with
  | error e =>
    rw [decodeReply_error h]
    exact .inl (Outputs.ofReply_fault_showsFault e)
  | ok pin =>
    obtain ⟨-, p, -, -, hread⟩ := decodeBlock_ok h
    rw [decodeReply_ok h]
    exact .inr (Outputs.ofReply_pin_showsPin (pinWf_of_readPin_ok hread))

/-- Settles O45: a command answers its reply, a fault or the outcome of its procedure. -/
theorem everyCommandEndsWithAnOutcome : Obligations.EveryCommandEndsWithAnOutcome := by
  intro i s
  refine ⟨_, exec_eq_answer i s, ?_⟩
  rw [State.answer_out]
  by_cases hi : i = .decode
  · subst hi
    exact (decodeReply_shows Config.hexLowerOk s.inp).imp_right fun hpin => .inr ⟨rfl, hpin⟩
  · obtain ⟨f, rfl⟩ := exists_eq_encodeCommand hi
    rw [replyOf_encodeCommand]
    exact (encodeReply_shows f s.inp).imp_right fun hblock => .inl ⟨hi, hblock⟩

/-- Settles O52: the reset ports are the first kind of legal ports. -/
theorem portsLegalAtReset : Obligations.PortsLegalAtReset := .inl rfl

/-- Settles O53: a step ends as its command does, in a fault, a block or a PIN, whatever the ports showed before. -/
theorem stepKeepsPortsLegal : Obligations.StepKeepsPortsLegal := by
  intro s t _ hstep
  obtain ⟨u, hexec, hshows⟩ := everyCommandEndsWithAnOutcome (decodeCmd s.inp.cmd) s
  cases hstep.symm.trans hexec
  rcases hshows with hfault | ⟨-, hblock⟩ | ⟨-, hpin⟩
  · exact .inr (.inl hfault)
  · exact .inr (.inr (.inl hblock))
  · exact .inr (.inr (.inr hpin))

/-! ### The frame of a command (R55) -/

theorem Outputs.ofReply_encodeReply_noPin (f : Format) (r : Inputs) :
    (Outputs.ofReply (encodeReply f r)).outPinLen = 0#4 ∧
      (Outputs.ofReply (encodeReply f r)).outPinCh = Vector.replicate 12 0#8 := by
  unfold encodeReply
  split <;> exact ⟨rfl, rfl⟩

theorem Outputs.ofReply_decodeReply_noBlock (lowerOk : Bool) (r : Inputs) :
    (Outputs.ofReply (decodeReply lowerOk r)).outHex = Vector.replicate 16 0#8 := by
  unfold decodeReply
  split <;> rfl

/-- Settles O44: answering writes the output ports only, and each procedure has one kind of result. -/
theorem commandsLeaveInputPorts : Obligations.CommandsLeaveInputPorts := by
  intro i s t hexec
  obtain rfl := exec_next hexec
  refine ⟨rfl, fun hi => ?_, fun hi => ?_⟩
  · obtain ⟨f, rfl⟩ := exists_eq_encodeCommand hi
    rw [State.answer_out, replyOf_encodeCommand]
    exact Outputs.ofReply_encodeReply_noPin f s.inp
  · subst hi
    exact Outputs.ofReply_decodeReply_noBlock Config.hexLowerOk s.inp

end Sys2Proof.Machine
end

section
/-!
SUPPORT. What the outcome of a command depends on: the operands it reads (R71), and neither the output ports before it
(R232, R260) nor the other instances (R40).
-/
namespace Sys2Proof.Machine

/-! ### The operands a command reads (R71) -/

theorem encodeBlock_congr (f : Format) (pin : Chars) (pan : Option Chars) {rnd rnd' : Vector Nibble 10}
    (h : fillIsConstant f = true ∨ ∀ j, j < 14 - pin.length → drawAt rnd j = drawAt rnd' j) :
    encodeBlock f pin pan rnd = encodeBlock f pin pan rnd' := by
  simp only [encodeBlock, pinField_congr f pin rnd rnd' h]

/-- An ENCODE command reads the PIN, the PAN and the draws of its fill. -/
theorem outputsOf_encodeCommand_congr (f : Format) {s s' : State} (hpin : s.inp.pin = s'.inp.pin)
    (hpan : s.inp.pan = s'.inp.pan)
    (hrnd : fillIsConstant f = true ∨ ∀ j, j < 14 - s.inp.pin.length → drawAt s.inp.rnd j = drawAt s'.inp.rnd j) :
    outputsOf (exec (encodeCommand f) s) = outputsOf (exec (encodeCommand f) s') := by
  rw [outputsOf_exec, outputsOf_exec, replyOf_encodeCommand, replyOf_encodeCommand, encodeReply, encodeReply,
    encodeBlock_congr f s.inp.pin s.inp.pan hrnd, hpin, hpan]

/-- Settles O4: ENCODE reads what its procedure reads, nothing when the format is not implemented (R102); DECODE reads
the block and the PAN. -/
theorem outcomeDependsOnOperandsRead : Obligations.OutcomeDependsOnOperandsRead := by
  refine fun s s' => ⟨fun hpin hpan => outputsOf_encodeCommand_congr .iso0 hpin hpan (.inl rfl), ?_, ?_,
    fun hpin hpan hrnd => outputsOf_encodeCommand_congr .iso3 hpin hpan (.inr hrnd), fun hpb hpan => ?_⟩
  · rw [unimplementedFormatsAlwaysFault _ s (.inl rfl), unimplementedFormatsAlwaysFault _ s' (.inl rfl)]
    rfl
  · rw [unimplementedFormatsAlwaysFault _ s (.inr rfl), unimplementedFormatsAlwaysFault _ s' (.inr rfl)]
    rfl
  · rw [outputsOf_exec, outputsOf_exec, replyOf, replyOf, decodeReply, decodeReply, hpb, hpan]

/-! ### The output ports before a command (R232, R260) -/

/-- A step sees the input ports only and overwrites every output port. -/
theorem step_congr {s s' : State} (h : s.inp = s'.inp) : step s = step s' := by
  rw [step_eq_answer, step_eq_answer, State.answer, State.answer, h]

/-- Settles O48: a step leaves the input ports, so the next one runs the same record to the same ports. -/
theorem sameRecordGivesSameOutcome : Obligations.SameRecordGivesSameOutcome := by
  intro s t hstep
  have hinp : t.inp = s.inp := (commandsLeaveInputPorts _ s t hstep).1
  rw [step_congr hinp, hstep]

/-- Settles O50: reset touches no input port, and a step sees nothing else. -/
theorem resetIsInvisibleToCommands : Obligations.ResetIsInvisibleToCommands :=
  fun _ _ => ⟨rfl, rfl, step_congr rfl, step_congr rfl⟩

/-! ### Instances side by side (R40) -/

/-- The state after a step: the ports show the reply of the presented command. -/
def State.afterStep (s : State) : State := s.answer (replyOf (decodeCmd s.inp.cmd) s.inp)

theorem step_eq_afterStep (s : State) : step s = .next s.afterStep := step_eq_answer s

/-- A command presented at place `k` modifies that place of the bank, if there is one. -/
theorem stepInstance_eq_modify (bank : List State) (k : Nat) :
    stepInstance bank k = .next (bank.modify k State.afterStep) := by
  rw [stepInstance, List.modify_eq_set_getElem?]
  cases bank[k]? with
  | none => rfl
  | some s => simp only [step_eq_afterStep, Option.map_eq_map, Option.map_some, Option.getD_some]

theorem stepInstance_next {bank bank' : List State} {k : Nat} (h : stepInstance bank k = .next bank') :
    bank' = bank.modify k State.afterStep := by
  rw [stepInstance_eq_modify] at h
  cases h
  rfl

/-- Settles O51: modifying one place of a list leaves the others, and modifications of two places commute. -/
theorem instancesShareNothing : Obligations.InstancesShareNothing := by
  constructor
  · intro bank bank' k h
    obtain rfl := stepInstance_next h
    refine ⟨List.length_modify _ _ _, fun j hj => List.getElem?_modify_ne _ _ (Ne.symm hj), fun s hs => ?_⟩
    exact ⟨_, step_eq_afterStep s, by rw [List.getElem?_modify_eq, hs]; rfl⟩
  · intro bank b₁ b₂ j k hjk h₁ h₂
    obtain rfl := stepInstance_next h₁
    obtain rfl := stepInstance_next h₂
    refine ⟨_, stepInstance_eq_modify bank k, ?_⟩
    rw [stepInstance_eq_modify, List.modify_modify_ne _ _ _ hjk]

end Sys2Proof.Machine
end

section
/-!
SUPPORT. The port contract (spec/00_scope.md R11): a record within the capacities, and the stop outside them (R240).
-/
namespace Sys2Proof.Machine

theorem fitsCap_iff (cap : Option Nat) (len : Nat) : fitsCap cap len = true ↔ ∀ c, cap = some c → len ≤ c := by
  cases cap with
  | none => simp [fitsCap]
  | some c => simp [fitsCap]

theorem withinCaps_iff (p : Params) (r : Inputs) :
    r.withinCaps p = true ↔
      (∀ c, p.pinCap = some c → r.pin.length ≤ c) ∧ (∀ c, p.pbCap = some c → r.pb.length ≤ c) ∧
        ∀ c pan, p.panCap = some c → r.pan = some pan → pan.length ≤ c := by
  rw [Inputs.withinCaps, Bool.and_eq_true, Bool.and_eq_true, fitsCap_iff, fitsCap_iff, and_assoc]
  refine and_congr_right' (and_congr_right' ?_)
  cases r.pan with
  | none => simp
  | some pan => simp [fitsCap_iff]

section Stops

variable {p : Params} {s : State}

theorem runEncode_beyond (f : Format) (h : ¬ s.inp.withinCaps p = true) :
    runEncode p f s = .fault .inputBeyondCapacity := by
  rw [runEncode, if_pos h]

theorem runDecode_beyond (h : ¬ s.inp.withinCaps p = true) : runDecode p s = .fault .inputBeyondCapacity := by
  rw [runDecode, if_pos h]

/-- Within the capacities the one stop left to ENCODE is a draw outside the admitted set (R127). -/
theorem runEncode_within (f : Format) (h : s.inp.withinCaps p = true) :
    runEncode p f s = .next (s.answer (encodeReply f s.inp)) ∨ runEncode p f s = .fault .drawNotAdmitted := by
  rw [runEncode, if_neg (not_not.mpr h)]
  cases hb : encodeBlock f s.inp.pin s.inp.pan s.inp.rnd with
  | error e =>
    rw [encodeReply_error hb]
    exact .inl rfl
  | ok hex =>
    rw [encodeReply_ok hb]
    exact ite_eq_or_eq _ _ _

/-- Within the capacities DECODE always completes. -/
theorem runDecode_within (h : s.inp.withinCaps p = true) :
    runDecode p s = .next (s.answer (decodeReply p.hexLowerOk s.inp)) := by
  rw [runDecode, if_neg (not_not.mpr h)]
  cases hb : decodeBlock p.hexLowerOk s.inp.pb s.inp.pan with
  | error e => rw [decodeReply_error hb]; rfl
  | ok pin => rw [decodeReply_ok hb]

end Stops

/-- Settles O46: one string beyond its port puts the record outside the contract, which every command checks first. -/
theorem stringBeyondCapacityHasNoStep : Obligations.StringBeyondCapacityHasNoStep := by
  refine fun p f s => ⟨fun hbeyond => ?_, fun hpin hpb hpan => ?_⟩
  · have hcaps : ¬ s.inp.withinCaps p = true := by
      rw [withinCaps_iff]
      rintro ⟨hpin, hpb, hpan⟩
      rcases hbeyond with ⟨c, hc, hlt⟩ | ⟨c, hc, hlt⟩ | ⟨c, pan, hc, hp, hlt⟩
      · exact absurd (hpin c hc) (not_le.mpr hlt)
      · exact absurd (hpb c hc) (not_le.mpr hlt)
      · exact absurd (hpan c pan hc hp) (not_le.mpr hlt)
    exact ⟨runEncode_beyond f hcaps, runDecode_beyond hcaps⟩
  · have hcaps := (withinCaps_iff p s.inp).mpr ⟨hpin, hpb, hpan⟩
    refine ⟨fun h => ?_, _, runDecode_within hcaps⟩
    obtain h' | h' := runEncode_within f hcaps <;> cases h'.symm.trans h

end Sys2Proof.Machine
end

section
/-!
SUPPORT. The order of the checks (spec/60_exceptions.md section 2): the first check of R226 and of R227 that fails
decides the codes of the outcome, and the parse (R193) is one of them.
-/
namespace Sys2Proof.Machine

/-! ### The codes on the ports after a command (R84, R85) -/

theorem codes_of_fault {i : Instr} {s t : State} {e : CodecFault} (h : exec i s = .next t)
    (he : replyOf i s.inp = .fault e) : (t.out.status, t.out.reason) = (kindCode e, reasonCode e) := by
  rw [exec_next h, State.answer_out, he]
  rfl

theorem codes_of_encodeBlock_error {f : Format} {s t : State} {e : CodecFault}
    (h : exec (encodeCommand f) s = .next t) (he : encodeBlock f s.inp.pin s.inp.pan s.inp.rnd = .error e) :
    (t.out.status, t.out.reason) = (kindCode e, reasonCode e) :=
  codes_of_fault h ((replyOf_encodeCommand f s.inp).trans (encodeReply_error he))

theorem codes_of_decodeBlock_error {s t : State} {e : CodecFault} (h : exec .decode s = .next t)
    (he : decodeBlock Config.hexLowerOk s.inp.pb s.inp.pan = .error e) :
    (t.out.status, t.out.reason) = (kindCode e, reasonCode e) :=
  codes_of_fault h (decodeReply_error he)

/-! ### The checks of ENCODE (R226) -/

theorem encodeCommand_unimplemented_iff (f : Format) :
    encodeCommand f = .encodeIso1 ∨ encodeCommand f = .encodeIso2 ↔ (fmtTable f).implemented = false := by
  cases f <;> decide

/-- Settles O11: down the chain of R226, each check that fails decides the procedure, those before it having passed. -/
theorem encodeReportsFirstFailingCheck : Obligations.EncodeReportsFirstFailingCheck := by
  intro i s t hi hexec
  obtain ⟨f, rfl⟩ := exists_eq_encodeCommand hi
  simp only [encodeCommand_unimplemented_iff]
  cases hf : (fmtTable f).implemented with
  | false => exact codes_of_encodeBlock_error hexec (encodeBlock_unimplemented hf _ _ _)
  | true =>
    rw [if_neg Bool.false_ne_true.symm]
    have hpinError {r : PinReason} (hcheck : pinCheck s.inp.pin = some r) :=
      codes_of_encodeBlock_error hexec ((encodeBlock_invalidPin_iff hf).mpr hcheck)
    split_ifs with hlen hdigits
    · exact hpinError (pinCheck_length hlen)
    · exact hpinError (pinCheck_nonNumeric (by omega) (by omega) hdigits)
    have hpin : pinWf s.inp.pin = true := (pinWf_iff _).mpr ⟨by omega, by omega, eq_true_of_ne_false hdigits⟩
    have hpanError {r : PanReason} (hcheck : panCheck s.inp.pan = .error r) :=
      codes_of_encodeBlock_error hexec (encodeBlock_panError s.inp.rnd hf hpin hcheck)
    cases hpan : s.inp.pan with
    | none => exact hpanError (hpan ▸ panCheck_absent)
    | some pan =>
      dsimp only
      split_ifs with hshort htail
      · exact hpanError (hpan ▸ panCheck_short hshort)
      · exact hpanError (hpan ▸ panCheck_nonNumeric (not_lt.mp hshort) htail)
      · have hwf : panWf (some pan) = true := (panWf_iff pan).mpr ⟨not_lt.mp hshort, eq_true_of_ne_false htail⟩
        cases hexec.symm.trans (exec_encodeCommand_of_wf hf hpin hpan hwf)
        rfl

/-! ### The parse (R193) -/

theorem decodeBlock_badChar_iff {lowerOk : Bool} {pb : Chars} (pan : Option Chars) (hl : pb.length = 16)
    (hm : charAt pb 0 = 0x30#8 ∨ charAt pb 0 = 0x33#8) :
    decodeBlock lowerOk pb pan = .error (.invalidPinblock .badChar) ↔ pb.all (isHex lowerOk) = false := by
  refine ⟨fun h => ?_, decodeBlock_badChar pan hl hm⟩
  rw [← Bool.not_eq_true]
  intro hx
  have hb : blockWf lowerOk pb = true := (blockWf_iff _ _).mpr ⟨hl, hx, hm⟩
  cases hp : panCheck pan with
  | error r => cases (decodeBlock_panError hb hp).symm.trans h
  | ok p =>
    obtain rfl := ((panCheck_ok_iff pan p).mp hp).1
    have hread := (decodeBlock_invalidPinblock_iff hb ((panWf_some_iff p).mpr hp)).mp h
    rcases readPin_error hread with hr | hr <;> cases hr

/-- Settles O54: steps 1 and 2 having passed, step 3 alone ends in the codes (4, 2), and it comes before the PAN. -/
theorem nonHexBlockCharacterFaults : Obligations.NonHexBlockCharacterFaults := by
  intro s hl hm
  have hiff := decodeBlock_badChar_iff (lowerOk := Config.hexLowerOk) s.inp.pan hl hm
  constructor
  · rintro ⟨c, hc, hx⟩
    refine exec_decode_error (hiff.mpr (List.all_eq_false.mpr ⟨c, hc, ?_⟩))
    rw [hx]
    exact Bool.false_ne_true
  · intro hall hout
    have hnot := hiff.mp (outputsOf_decode_fault_iff.mp hout)
    rw [List.all_eq_true.mpr hall] at hnot
    cases hnot

/-! ### The checks of DECODE (R227) -/

/-- The last two checks and the result, the block and the PAN being well-formed (R199 to R201). -/
theorem codes_of_wellFormed_decode {s t : State} {pan : Chars} (hexec : exec .decode s = .next t)
    (hb : blockWf Config.hexLowerOk s.inp.pb = true) (hpan : s.inp.pan = some pan) (hwf : panWf (some pan) = true) :
    (t.out.status, t.out.reason) =
      if hexVal (charAt s.inp.pb 1) < 4#4 ∨ 12#4 < hexVal (charAt s.inp.pb 1) then (4#3, 3#3)
      else if ((List.range (hexVal (charAt s.inp.pb 1)).toNat).any fun k =>
          decide (9#4 < hexVal (charAt s.inp.pb (2 + k)) ^^^ panLane pan (2 + k))) = true then (4#3, 4#3)
      else (0#3, 0#3) := by
  have hwf' : panWf s.inp.pan = true := hpan ▸ hwf
  by_cases hlen : hexVal (charAt s.inp.pb 1) < 4#4 ∨ 12#4 < hexVal (charAt s.inp.pb 1)
  · rw [if_pos hlen]
    cases hexec.symm.trans ((recoveredLengthOutsideFourToTwelveFaults s hb hwf').1 hlen)
    rfl
  · rw [if_neg hlen]
    have h4 : 4 ≤ (hexVal (charAt s.inp.pb 1)).toNat := not_lt.mp fun h => hlen (.inl h)
    have h12 : (hexVal (charAt s.inp.pb 1)).toNat ≤ 12 := not_lt.mp fun h => hlen (.inr h)
    split_ifs with hdigits
    · obtain ⟨k, hk, h9⟩ := List.any_eq_true.mp hdigits
      cases hexec.symm.trans (recoveredDigitAboveNineFaults s pan _ k hb hpan hwf rfl h4 h12 (List.mem_range.mp hk)
        (of_decide_eq_true h9))
      rfl
    · obtain ⟨ch, hnext, -⟩ := decodeResult s pan _ hb hpan hwf rfl h4 h12 fun k hk =>
        BitVec.not_lt.mp fun h9 => hdigits (List.any_eq_true.mpr ⟨k, List.mem_range.mpr hk, decide_eq_true h9⟩)
      cases hexec.symm.trans hnext
      rfl

/-- Settles O35: down the chain of R227, each check that fails decides the procedure, those before it having passed. -/
theorem decodeReportsFirstFailingCheck : Obligations.DecodeReportsFirstFailingCheck := by
  intro s t hexec
  by_cases hl : s.inp.pb.length = 16
  case neg =>
    rw [if_pos hl]
    exact codes_of_decodeBlock_error hexec (decodeBlock_length s.inp.pan hl)
  rw [if_neg (not_not.mpr hl)]
  by_cases hm : charAt s.inp.pb 0 = 0x30#8 ∨ charAt s.inp.pb 0 = 0x33#8
  case neg =>
    rw [if_pos (not_or.mp hm)]
    exact codes_of_decodeBlock_error hexec (decodeBlock_decMarker s.inp.pan hl (not_or.mp hm))
  rw [if_neg fun h => hm.elim h.1 h.2]
  cases hx : s.inp.pb.all (isHex Config.hexLowerOk) with
  | false => exact codes_of_decodeBlock_error hexec (decodeBlock_badChar s.inp.pan hl hm hx)
  | true =>
    rw [if_neg Bool.false_ne_true.symm]
    have hb : blockWf Config.hexLowerOk s.inp.pb = true := (blockWf_iff _ _).mpr ⟨hl, hx, hm⟩
    have hpanError {r : PanReason} (hcheck : panCheck s.inp.pan = .error r) :=
      codes_of_decodeBlock_error hexec (decodeBlock_panError hb hcheck)
    cases hpan : s.inp.pan with
    | none => exact hpanError (hpan ▸ panCheck_absent)
    | some pan =>
      dsimp only
      by_cases hshort : pan.length < 13
      · rw [if_pos hshort]
        exact hpanError (hpan ▸ panCheck_short hshort)
      · rw [if_neg hshort]
        cases htail : (pan.drop (pan.length - 13)).all isDigit with
        | false => exact hpanError (hpan ▸ panCheck_nonNumeric (not_lt.mp hshort) htail)
        | true =>
          rw [if_neg Bool.false_ne_true.symm]
          exact codes_of_wellFormed_decode hexec hb hpan ((panWf_iff pan).mpr ⟨not_lt.mp hshort, htail⟩)

end Sys2Proof.Machine
end

section
/-!
SUPPORT. The command word (spec/30_encoding.md R70, R71): the map, and the command a step runs (R25).
-/
namespace Sys2Proof.Machine

/-- Settles O1: the eight words of the map, each decoded. -/
theorem commandWordsDecode : Obligations.CommandWordsDecode := by
  unfold Obligations.CommandWordsDecode
  decide

theorem decodeCmd_encodeCmd (i : Instr) : decodeCmd (encodeCmd i) = i := by
  cases i with
  | encodeIso0 => exact Laws.CommandWord.encodeIso0.2
  | encodeIso1 => exact Laws.CommandWord.encodeIso1.2
  | encodeIso2 => exact Laws.CommandWord.encodeIso2.2
  | encodeIso3 => exact Laws.CommandWord.encodeIso3.2
  | decode => exact Laws.CommandWord.decode.2

/-- A 3-bit word read as a number names the command the word names. -/
theorem decodeNumber_toNat (w : BitVec 3) : decodeNumber w.toNat = .ok (decodeCmd w) := by
  rw [decodeNumber, if_pos w.isLt, BitVec.ofNat_toNat, BitVec.setWidth_eq]

/-- Settles O3: a step runs the command its word decodes to, and decoding undoes encoding. -/
theorem stepRunsPresentedCommand : Obligations.StepRunsPresentedCommand := by
  refine fun s i => ⟨fun h => ?_, ?_⟩
  · rw [decodeNumber_toNat] at h
    cases h
    rfl
  · rw [step, State.presentCmd_cmd, decodeCmd_encodeCmd]

end Sys2Proof.Machine
end

section
/-!
SUPPORT. The packed view of a field (spec/20_memory.md R52): which bit of which nibble stands where, and XOR on it.
-/
namespace Sys2Proof.Machine

/-- The packed view of nibbles 0 to `n`: `packField` one nibble at a time. -/
def packedUpTo (F : Field) : (n : Nat) → BitVec (4 * n + 4)
  | 0 => nibbleAt F 0
  | n + 1 => packedUpTo F n ++ nibbleAt F (n + 1)

theorem packField_eq_packedUpTo (F : Field) : packField F = packedUpTo F 15 := rfl

theorem packedUpTo_xor16 (A B : Field) (n : Nat) :
    packedUpTo (xor16 A B) n = packedUpTo A n ^^^ packedUpTo B n := by
  induction n with
  | zero => exact nibbleAt_xor16 A B 0
  | succ n ih => rw [packedUpTo, packedUpTo, packedUpTo, ih, nibbleAt_xor16, BitVec.xor_append]

/-- Each nibble added on the right moves those before it up by four places. -/
theorem getLsbD_packedUpTo (F : Field) {n i b : Nat} (hi : i ≤ n) (hb : b < 4) :
    (packedUpTo F n).getLsbD (4 * (n - i) + b) = (nibbleAt F i).getLsbD b := by
  induction n with
  | zero =>
    obtain rfl : i = 0 := by omega
    exact congrArg (nibbleAt F 0).getLsbD (Nat.zero_add b)
  | succ n ih =>
    rw [packedUpTo, BitVec.getLsbD_append]
    obtain rfl | hle : i = n + 1 ∨ i ≤ n := by omega
    · rw [Nat.sub_self, Nat.mul_zero, Nat.zero_add, if_pos hb]
    · rw [if_neg (by omega), show 4 * (n + 1 - i) + b - 4 = 4 * (n - i) + b by omega, ih hle]

/-- Bit `b` of nibble `i` stands at place `60 - 4 i + b` of the packed view. -/
theorem getLsbD_packField (F : Field) {i b : Nat} (hi : i < 16) (hb : b < 4) :
    (packField F).getLsbD (60 - 4 * i + b) = (nibbleAt F i).getLsbD b := by
  rw [packField_eq_packedUpTo, show 60 - 4 * i = 4 * (15 - i) by omega, getLsbD_packedUpTo F (by omega) hb]

/-- Settles O25: the view is built nibble by nibble, as XOR is, and each nibble keeps its four places. -/
theorem xorCombinerIsOnePackedXor : Obligations.XorCombinerIsOnePackedXor := by
  refine ⟨fun A B => packedUpTo_xor16 A B 15, fun F i => ?_, fun F k => ?_⟩
  · refine BitVec.eq_of_getLsbD_eq fun b hb => ?_
    rw [BitVec.getLsbD_extractLsb', decide_eq_true hb, Bool.true_and, getLsbD_packField F i.isLt hb,
      nibbleAt_of_lt F i.isLt, Fin.getElem_fin]
  · refine BitVec.eq_of_getLsbD_eq fun b hb => ?_
    rw [BitVec.getLsbD_extractLsb', decide_eq_true hb, Bool.true_and, packedByte, BitVec.getLsbD_append]
    split
    · rw [show 56 - 8 * k.val + b = 60 - 4 * (2 * k.val + 1) + b by omega, getLsbD_packField F (by omega) ‹_›]
    · rw [show 56 - 8 * k.val + b = 60 - 4 * (2 * k.val) + (b - 4) by omega, getLsbD_packField F (by omega) (by omega)]

end Sys2Proof.Machine
end
